-- ==== Sys2Proof/Word.lean ====
section
/-! DEFINITION. The word types of the block: bytes, 32-bit request words, and the two kinds of code the
opcode table lists (host request words and bridge frames). -/

namespace Sys2Proof

/-- Every frame byte, status byte, CRC value, identifier byte and buffer byte is 8 bits
(00_scope.md R11). -/
abbrev Byte := BitVec 8

/-- The host request word is 32 bits (30_encoding.md R75). -/
abbrev Word := BitVec 32

/-- An address of the host register space is 16 bits (20_memory.md R55). -/
abbrev Addr := BitVec 16

/-- What a row of `spec/opcode_table.json` encodes: a host request word (30_encoding.md section 1), or
the bytes the block writes in one bridge frame, first byte first (30_encoding.md section 2, R86). -/
inductive Code where
  | request (req : Word)
  | frame (bytes : List Byte)
deriving DecidableEq, Repr

end Sys2Proof
end

