-- ==== Sys2Proof/Config.lean ====
section
/-! DEFINITION. The implementation parameters of 00_scope.md R9 and the free values of the spec. The
parameter record is an argument of everything that depends on it (it stands in `State`, log entry 1);
the three constants below have no body, so nothing can be proved about their values. -/

namespace Sys2Proof

/-- The named parameters of 00_scope.md R9, fixed for the block's lifetime (70_reset_and_hazards.md
R192). The bridge's bus address is `Config.bridgeAddr`. -/
structure Params where
  /-- P_POLL_LIMIT: most status re-reads in one busy poll (41_bridge.md R104). -/
  pollLimit : Nat
  /-- P_CMD_DRST: opcode "device-reset". -/
  cmdDrst : Byte
  /-- P_CMD_WCFG: opcode "write-configuration". -/
  cmdWcfg : Byte
  /-- P_CMD_1WRS: opcode "bus-reset". -/
  cmd1wrs : Byte
  /-- P_CMD_1WSB: opcode "single-bit". -/
  cmd1wsb : Byte
  /-- P_CMD_1WWB: opcode "write-byte". -/
  cmd1wwb : Byte
  /-- P_CMD_1WRB: opcode "read-byte". -/
  cmd1wrb : Byte
  /-- P_CMD_SRP: opcode "set-read-pointer". -/
  cmdSrp : Byte
  /-- P_CMD_1WT: opcode "triplet". -/
  cmd1wt : Byte
  /-- P_CMD_WBP: opcode "write-byte-with-power"; the spec gives it no value (30_encoding.md R93). -/
  cmdWbp : Option Byte
  /-- P_PTR_DATA: set-read-pointer argument that selects the data register. -/
  ptrData : Byte
  /-- P_RESET_ACK_MASK: mask applied to the device-reset reply. -/
  resetAckMask : Byte
  /-- P_RESET_ACK: the reset-acknowledgement pattern. -/
  resetAck : Byte
  /-- P_BUF_SIZE: bytes in the transfer buffer. -/
  bufSize : Nat
  /-- P_WBP_SEND_BIT: bit sent by WRITE_BIT_POWER. -/
  wbpSendBit : Bool
  /-- P_LDF_EXIT_RESETS: whether the LastDeviceFlag exit also resets the Search State. -/
  ldfExitResets : Bool
deriving DecidableEq, Repr

/-- The bounds the spec states for parameters: P_POLL_LIMIT at least 1 (41_bridge.md R104) and
P_BUF_SIZE at most 0xFF00 (20_memory.md R55). -/
def Params.wf (P : Params) : Bool :=
  decide (1 ≤ P.pollLimit) && decide (P.bufSize ≤ 0xFF00)

/-- The bridge opcodes can be told apart within one frame length. The spec's opcode values are
parameters (92_eei_decisions.md D9) and it states no such rule; its default values have the property. -/
def Params.opcodesDistinct (P : Params) : Bool :=
  decide ([P.cmdDrst, P.cmd1wrs, P.cmd1wrb] ++ P.cmdWbp.toList).Nodup &&
  decide [P.cmdWcfg, P.cmd1wsb, P.cmd1wwb, P.cmdSrp, P.cmd1wt].Nodup

/-- P_BRIDGE_ADDR, "a fixed 7-bit address": OPEN in the spec (00_scope.md R9, 92_eei_decisions.md D11).
No rule's result depends on it (log entry 2). -/
opaque Config.bridgeAddr : BitVec 7

/-- The bridge's answer to a frame for which the state lists no scripted answer: an oracle draw,
applied to the running count of draws (00_scope.md R16, 92_eei_decisions.md D33, log entry 4). -/
opaque Config.bridgeAnswer : Nat → Byte

/-- The value a host read of a never-written ROM bit or BUF byte returns: an oracle draw, applied to
the running count of draws (92_eei_decisions.md D22, log entries 5 and 6). -/
opaque Config.unsetByte : Nat → Byte

end Sys2Proof
end

