-- ==== Sys2Proof/Machine/Defaults.lean ====
section
/-! DEFINITION. The default parameter values of 00_scope.md R9. -/

namespace Sys2Proof.Machine

/-- The defaults of 00_scope.md R9. The opcode values, the data-pointer code and the acknowledgement
pattern are the ones the spec marks as general knowledge (93_implementation_defined.md G2 to G4);
P_CMD_WBP has no value (30_encoding.md R93). -/
def defaultParams : Params where
  pollLimit := 10
  cmdDrst := 0xF0
  cmdWcfg := 0xD2
  cmd1wrs := 0xB4
  cmd1wsb := 0x87
  cmd1wwb := 0xA5
  cmd1wrb := 0x96
  cmdSrp := 0xE1
  cmd1wt := 0x78
  cmdWbp := none
  ptrData := 0xE1
  resetAckMask := 0xDF
  resetAck := 0x10
  bufSize := 256
  wbpSendBit := true
  ldfExitResets := false

end Sys2Proof.Machine
end

