-- ==== Sys2Proof/Syntax.lean ====
section
/-! DEFINITION. The instructions: one constructor per row of `spec/opcode_table.json`. The first 21 are
the host operations (30_encoding.md R79), the last 9 the bridge commands (30_encoding.md R86). -/

namespace Sys2Proof

/-- The operand of SET_LEVEL (30_encoding.md R76): 0x00 is STANDARD, 0x02 is STRONG. -/
inductive Level where
  | standard
  | strong
deriving DecidableEq, Repr

/-- The rows of the opcode table. Operand types carry the operand forms of 30_encoding.md R76: a bit is
a `Bool`, a nibble four bits, the block length nine bits. -/
inductive Instr where
  /-- BRIDGE_RESET (41_bridge.md R109). -/
  | bridgeReset
  /-- DETECT (41_bridge.md R112). -/
  | detect
  /-- WRITE_CONFIG c (41_bridge.md R111). -/
  | writeConfig (c : BitVec 4)
  /-- BUS_RESET (42_bus.md R120). -/
  | busReset
  /-- TOUCH_BIT b (42_bus.md R122). -/
  | touchBit (b : Bool)
  /-- WRITE_BIT b (42_bus.md R123). -/
  | writeBit (b : Bool)
  /-- READ_BIT (42_bus.md R124). -/
  | readBit
  /-- WRITE_BYTE v (42_bus.md R126). -/
  | writeByte (v : Byte)
  /-- READ_BYTE (42_bus.md R128). -/
  | readByte
  /-- TOUCH_BYTE v (42_bus.md R129). -/
  | touchByte (v : Byte)
  /-- BLOCK n (42_bus.md R130). -/
  | block (n : BitVec 9)
  /-- SET_LEVEL L (42_bus.md R131). -/
  | setLevel (l : Level)
  /-- WRITE_BIT_POWER b (42_bus.md R132). -/
  | writeBitPower (b : Bool)
  /-- WRITE_BYTE_POWER v (42_bus.md R133). -/
  | writeBytePower (v : Byte)
  /-- CRC_CLEAR (43_crc.md R140). -/
  | crcClear
  /-- CRC_UPDATE v (43_crc.md R141). -/
  | crcUpdate (v : Byte)
  /-- SEARCH_FIRST (44_search.md R160). -/
  | searchFirst
  /-- SEARCH_NEXT (44_search.md R161). -/
  | searchNext
  /-- ALARM_FIRST (44_search.md R162). -/
  | alarmFirst
  /-- ALARM_NEXT (44_search.md R163). -/
  | alarmNext
  /-- TRIPLET d (44_search.md R164). -/
  | triplet (d : Bool)
  /-- Bridge frame device-reset (30_encoding.md R86, 41_bridge.md R108). -/
  | bridgeDeviceReset
  /-- Bridge frame write-configuration of c (41_bridge.md R110). -/
  | bridgeWriteConfig (c : BitVec 4)
  /-- Bridge frame bus-reset (42_bus.md R119). -/
  | bridgeBusReset
  /-- Bridge frame single-bit (42_bus.md R121). -/
  | bridgeSingleBit (b : Bool)
  /-- Bridge frame write-byte (42_bus.md R125). -/
  | bridgeWriteByte (v : Byte)
  /-- Bridge frame read-byte (42_bus.md R127). -/
  | bridgeReadByte
  /-- Bridge frame set-read-pointer to the data register (42_bus.md R127). -/
  | bridgeSetReadPointer
  /-- Bridge frame triplet (44_search.md R158). -/
  | bridgeTriplet (d : Bool)
  /-- Bridge command write-byte-with-power: no value, no argument and no rule (30_encoding.md R93). -/
  | bridgeWriteByteWithPower
deriving DecidableEq, Repr

/-- Whether the row is one of the 21 host operations (30_encoding.md R79); the rest are bridge frames. -/
def Instr.isOperation : Instr → Bool
  | .bridgeReset | .detect | .writeConfig _ | .busReset | .touchBit _ | .writeBit _ | .readBit
  | .writeByte _ | .readByte | .touchByte _ | .block _ | .setLevel _ | .writeBitPower _
  | .writeBytePower _ | .crcClear | .crcUpdate _ | .searchFirst | .searchNext | .alarmFirst
  | .alarmNext | .triplet _ => true
  | .bridgeDeviceReset | .bridgeWriteConfig _ | .bridgeBusReset | .bridgeSingleBit _
  | .bridgeWriteByte _ | .bridgeReadByte | .bridgeSetReadPointer | .bridgeTriplet _
  | .bridgeWriteByteWithPower => false

/-- Whether the row is one of the four search operations (44_search.md section 3). -/
def Instr.isSearch : Instr → Bool
  | .searchFirst | .searchNext | .alarmFirst | .alarmNext => true
  | .bridgeReset | .detect | .writeConfig _ | .busReset | .touchBit _ | .writeBit _ | .readBit
  | .writeByte _ | .readByte | .touchByte _ | .block _ | .setLevel _ | .writeBitPower _
  | .writeBytePower _ | .crcClear | .crcUpdate _ | .triplet _ | .bridgeDeviceReset
  | .bridgeWriteConfig _ | .bridgeBusReset | .bridgeSingleBit _ | .bridgeWriteByte _
  | .bridgeReadByte | .bridgeSetReadPointer | .bridgeTriplet _ | .bridgeWriteByteWithPower => false

end Sys2Proof
end

