-- ==== Sys2Proof/Machine/Operands.lean ====
section
/-! DEFINITION. The operand forms of the two encodings: the fields of a request word (30_encoding.md
R75, R76, R83) and the argument bytes of a bridge frame (R88 to R90). -/

namespace Sys2Proof.Machine

/-- OP, bits 7:0 of a request word (30_encoding.md R75). -/
def opField (req : Word) : Byte := req.extractLsb' 0 8

/-- ARG, bits 15:8 of a request word. -/
def argField (req : Word) : Byte := req.extractLsb' 8 8

/-- LEN, bits 24:16 of a request word. -/
def lenField (req : Word) : BitVec 9 := req.extractLsb' 16 9

/-- RSV, bits 31:25 of a request word. -/
def rsvField (req : Word) : BitVec 7 := req.extractLsb' 25 7

/-- A request word from its fields, with RSV = 0 (30_encoding.md R96). -/
def requestWord (op arg : Byte) (len : BitVec 9) : Word := (0#7 ++ len) ++ (arg ++ op)

/-- The "bit" form: ARG[7:1] = 0, and the operand is ARG[0] (30_encoding.md R76). -/
def bitOperand (arg : Byte) : Option Bool :=
  if arg.extractLsb' 1 7 = 0 then some (arg.getLsbD 0) else none

/-- The "nibble" form: ARG[7:4] = 0, and the operand is ARG[3:0]. -/
def nibbleOperand (arg : Byte) : Option (BitVec 4) :=
  if arg.extractLsb' 4 4 = 0 then some (arg.extractLsb' 0 4) else none

/-- The "level" form: ARG is 0x00 (STANDARD) or 0x02 (STRONG). -/
def levelOperand (arg : Byte) : Option Level :=
  if arg = 0x00 then some .standard else if arg = 0x02 then some .strong else none

/-- A bit as an ARG byte or a RESULT byte: 0x01 or 0x00. -/
def bitByte (b : Bool) : Byte := if b then 0x01 else 0x00

/-- A level as an ARG byte (30_encoding.md R76). -/
def levelByte : Level → Byte
  | .standard => 0x00
  | .strong => 0x02

/-- The argument of a single-bit or triplet frame, `b << 7`: 0x80 or 0x00 (30_encoding.md R88, R89). -/
def bitArg (b : Bool) : Byte := if b then 0x80 else 0x00

/-- The bit whose argument byte is `arg`; no other argument value is ever sent (30_encoding.md R88). -/
def bitOfArg (arg : Byte) : Option Bool :=
  if arg = 0x80 then some true else if arg = 0x00 then some false else none

/-- The configuration byte on the wire: c in bits 3:0, its complement in bits 7:4 (30_encoding.md R90). -/
def wcfg (c : BitVec 4) : Byte := ~~~c ++ c

/-- The configuration whose wire byte is `arg`: the upper nibble is always the complement of the lower
one (30_encoding.md R90). -/
def configOfArg (arg : Byte) : Option (BitVec 4) :=
  if arg.extractLsb' 4 4 = ~~~(arg.extractLsb' 0 4) then some (arg.extractLsb' 0 4) else none

end Sys2Proof.Machine
end

