-- ==== Sys2Proof/WellFormed.lean ====
section
/-! DEFINITION. Which instructions have an encoding: the checks on operands that the operand types do
not already make. -/

namespace Sys2Proof

/-- The checks, under the parameters P. BLOCK needs LEN ≤ P_BUF_SIZE (30_encoding.md R77); the
write-byte-with-power command has a word only where its opcode has a value (30_encoding.md R93). The
other operand constraints of 30_encoding.md R76 are carried by the operand types. -/
def Instr.wf (P : Params) : Instr → Bool
  | .block n => decide (n.toNat ≤ P.bufSize)
  | .bridgeWriteByteWithPower => P.cmdWbp.isSome
  | .bridgeReset | .detect | .writeConfig _ | .busReset | .touchBit _ | .writeBit _ | .readBit
  | .writeByte _ | .readByte | .touchByte _ | .setLevel _ | .writeBitPower _ | .writeBytePower _
  | .crcClear | .crcUpdate _ | .searchFirst | .searchNext | .alarmFirst | .alarmNext | .triplet _
  | .bridgeDeviceReset | .bridgeWriteConfig _ | .bridgeBusReset | .bridgeSingleBit _
  | .bridgeWriteByte _ | .bridgeReadByte | .bridgeSetReadPointer | .bridgeTriplet _ => true

/-- The instruction is well formed under the parameters P. -/
abbrev WellFormed (P : Params) (i : Instr) : Prop := i.wf P = true

end Sys2Proof
end

