-- ==== Sys2Proof/Decode.lean ====
section
/-! DEFINITION. The decoder, total on every request word and every list of frame bytes and rejecting by
name, and after it the encoder, written from the same tables (30_encoding.md R79, R80, R86). -/

namespace Sys2Proof

open Sys2Proof.Machine

/-- Why the decoder rejects: the four checks of 30_encoding.md R80 on a request word, and the two ways
frame bytes can fail to be a frame of 30_encoding.md R86. -/
inductive DecodeError where
  /-- RSV ≠ 0 (30_encoding.md R78). -/
  | reservedBits
  /-- OP is not in the map of 30_encoding.md R79. -/
  | undefinedOp
  /-- ARG violates the operation's form (30_encoding.md R76). -/
  | badOperand
  /-- LEN exceeds P_BUF_SIZE, or is not 0 outside BLOCK (30_encoding.md R77). -/
  | badLength
  /-- The first byte is no bridge opcode of a frame of this many bytes (30_encoding.md R86, R87). -/
  | unknownFrame
  /-- The argument byte is none the block ever sends with this opcode (30_encoding.md R88 to R90). -/
  | badFrameArgument
deriving DecidableEq, Repr

/-- One row of the operation map: the operand form, and the operation it makes of the operand. -/
inductive OperandForm where
  | none (i : Instr)
  | bit (f : Bool → Instr)
  | byte (f : Byte → Instr)
  | nibble (f : BitVec 4 → Instr)
  | level (f : Level → Instr)
  | length (f : BitVec 9 → Instr)

/-- The operation map of 30_encoding.md R79, lifecycle and bus rows. -/
def busRows : List (Byte × OperandForm) :=
  [(0x01, .none .bridgeReset),
   (0x02, .none .detect),
   (0x03, .nibble .writeConfig),
   (0x10, .none .busReset),
   (0x11, .bit .touchBit),
   (0x12, .bit .writeBit),
   (0x13, .none .readBit),
   (0x14, .byte .writeByte),
   (0x15, .none .readByte),
   (0x16, .byte .touchByte),
   (0x17, .length .block),
   (0x18, .level .setLevel),
   (0x19, .bit .writeBitPower),
   (0x1A, .byte .writeBytePower)]

/-- The operation map of 30_encoding.md R79, CRC and search rows. -/
def searchRows : List (Byte × OperandForm) :=
  [(0x20, .none .crcClear),
   (0x21, .byte .crcUpdate),
   (0x30, .none .searchFirst),
   (0x31, .none .searchNext),
   (0x32, .none .alarmFirst),
   (0x33, .none .alarmNext),
   (0x34, .bit .triplet)]

/-- The operation map of 30_encoding.md R79. -/
def operationMap : List (Byte × OperandForm) := busRows ++ searchRows

/-- The operand check and the operand, from ARG (30_encoding.md R76, R83). -/
def OperandForm.operation (form : OperandForm) (arg : Byte) (len : BitVec 9) : Option Instr :=
  match form with
  | .none i => if arg = 0 then some i else .none
  | .bit f => (bitOperand arg).map f
  | .byte f => some (f arg)
  | .nibble f => (nibbleOperand arg).map f
  | .level f => (levelOperand arg).map f
  | .length f => if arg = 0 then some (f len) else .none

/-- The LEN check: at most P_BUF_SIZE for BLOCK, 0 for every other operation (30_encoding.md R77). -/
def OperandForm.lengthOk (P : Params) (form : OperandForm) (len : BitVec 9) : Bool :=
  match form with
  | .length _ => decide (len.toNat ≤ P.bufSize)
  | .none _ | .bit _ | .byte _ | .nibble _ | .level _ => len == 0

/-- `decode(req)` of 30_encoding.md R80, its checks in the order written there. -/
def decodeRequest (P : Params) (req : Word) : Except DecodeError Instr :=
  if rsvField req ≠ 0 then .error .reservedBits
  else
    match operationMap.lookup (opField req) with
    | none => .error .undefinedOp
    | some form =>
      match form.operation (argField req) (lenField req) with
      | none => .error .badOperand
      | some i => if form.lengthOk P (lenField req) then .ok i else .error .badLength

/-- An operand read from a frame's argument byte, or the rejection of that byte. -/
def frameOperand {α : Type} (operand : Option α) (f : α → Instr) : Except DecodeError Instr :=
  match operand with
  | some a => .ok (f a)
  | none => .error .badFrameArgument

/-- A frame of one written byte: device-reset, bus-reset, read-byte (30_encoding.md R87); and
write-byte-with-power where its opcode has a value (R93). -/
def decodeShortFrame (P : Params) (cmd : Byte) : Except DecodeError Instr :=
  if cmd = P.cmdDrst then .ok .bridgeDeviceReset
  else if cmd = P.cmd1wrs then .ok .bridgeBusReset
  else if cmd = P.cmd1wrb then .ok .bridgeReadByte
  else if P.cmdWbp = some cmd then .ok .bridgeWriteByteWithPower
  else .error .unknownFrame

/-- A frame of two written bytes: write-configuration, single-bit, write-byte, set-read-pointer and
triplet, each with the argument bytes the block sends (30_encoding.md R86 to R90). -/
def decodeLongFrame (P : Params) (cmd arg : Byte) : Except DecodeError Instr :=
  if cmd = P.cmdWcfg then frameOperand (configOfArg arg) .bridgeWriteConfig
  else if cmd = P.cmd1wsb then frameOperand (bitOfArg arg) .bridgeSingleBit
  else if cmd = P.cmd1wwb then .ok (.bridgeWriteByte arg)
  else if cmd = P.cmdSrp then
    (if arg = P.ptrData then .ok .bridgeSetReadPointer else .error .badFrameArgument)
  else if cmd = P.cmd1wt then frameOperand (bitOfArg arg) .bridgeTriplet
  else .error .unknownFrame

/-- The bridge command a frame's written bytes stand for (30_encoding.md R86, R87). -/
def decodeFrame (P : Params) (bytes : List Byte) : Except DecodeError Instr :=
  match bytes with
  | [cmd] => decodeShortFrame P cmd
  | [cmd, arg] => decodeLongFrame P cmd arg
  | _ => .error .unknownFrame

/-- The decoder, on either kind of code. -/
def decode (P : Params) (c : Code) : Except DecodeError Instr :=
  match c with
  | .request req => decodeRequest P req
  | .frame bytes => decodeFrame P bytes

/-- The encoder: the request word of an operation (30_encoding.md R79, R96), the written bytes of a
bridge command (R86). Write-byte-with-power has bytes only where its opcode has a value (R93). -/
def encode (P : Params) : Instr → Code
  | .bridgeReset => .request (requestWord 0x01 0 0)
  | .detect => .request (requestWord 0x02 0 0)
  | .writeConfig c => .request (requestWord 0x03 (c.zeroExtend 8) 0)
  | .busReset => .request (requestWord 0x10 0 0)
  | .touchBit b => .request (requestWord 0x11 (bitByte b) 0)
  | .writeBit b => .request (requestWord 0x12 (bitByte b) 0)
  | .readBit => .request (requestWord 0x13 0 0)
  | .writeByte v => .request (requestWord 0x14 v 0)
  | .readByte => .request (requestWord 0x15 0 0)
  | .touchByte v => .request (requestWord 0x16 v 0)
  | .block n => .request (requestWord 0x17 0 n)
  | .setLevel l => .request (requestWord 0x18 (levelByte l) 0)
  | .writeBitPower b => .request (requestWord 0x19 (bitByte b) 0)
  | .writeBytePower v => .request (requestWord 0x1A v 0)
  | .crcClear => .request (requestWord 0x20 0 0)
  | .crcUpdate v => .request (requestWord 0x21 v 0)
  | .searchFirst => .request (requestWord 0x30 0 0)
  | .searchNext => .request (requestWord 0x31 0 0)
  | .alarmFirst => .request (requestWord 0x32 0 0)
  | .alarmNext => .request (requestWord 0x33 0 0)
  | .triplet d => .request (requestWord 0x34 (bitByte d) 0)
  | .bridgeDeviceReset => .frame [P.cmdDrst]
  | .bridgeWriteConfig c => .frame [P.cmdWcfg, wcfg c]
  | .bridgeBusReset => .frame [P.cmd1wrs]
  | .bridgeSingleBit b => .frame [P.cmd1wsb, bitArg b]
  | .bridgeWriteByte v => .frame [P.cmd1wwb, v]
  | .bridgeReadByte => .frame [P.cmd1wrb]
  | .bridgeSetReadPointer => .frame [P.cmdSrp, P.ptrData]
  | .bridgeTriplet d => .frame [P.cmd1wt, bitArg d]
  | .bridgeWriteByteWithPower => .frame P.cmdWbp.toList

/-- The code that `nbits` bits of a table row are: 32 bits are a request word; a shorter row is the bytes
of a bridge frame, the first byte in the high part, as the table's note on those rows says. -/
def codeOfTable (nbits w : Nat) : Code :=
  if nbits = 32 then .request (BitVec.ofNat 32 w)
  else .frame ((List.range (nbits / 8)).reverse.map fun k => BitVec.ofNat 8 (w >>> (8 * k)))

/-- The instruction the decoder reads from a row of the opcode table, under the default parameters (the
values the table shows). -/
def decodeTableWord (nbits w : Nat) : Option Instr :=
  match decode defaultParams (codeOfTable nbits w) with
  | .ok i => some i
  | .error _ => none

end Sys2Proof
end

