-- ==== Sys2Proof/Machine/Flags.lean ====
section
/-! DEFINITION. Named bits: the bridge's status snapshot (30_encoding.md R84), the host status register
HSR (10_state.md R23), the configuration register CFG (10_state.md R26), and the tests the block makes
on a bridge reply (30_encoding.md R92). -/

namespace Sys2Proof.Machine

/-- Status bit 0, 1WB: the bridge is busy. -/
def stBusy (S : Byte) : Bool := S.getLsbD 0

/-- Status bit 1, PPD: presence pulse detected. -/
def stPresence (S : Byte) : Bool := S.getLsbD 1

/-- Status bit 2, SD: short detected. -/
def stShort (S : Byte) : Bool := S.getLsbD 2

/-- Status bit 3, LL: logic level. No rule reads it on its own (30_encoding.md R85). -/
def stLogicLevel (S : Byte) : Bool := S.getLsbD 3

/-- Status bit 4, RST: device reset occurred. No rule reads it on its own (30_encoding.md R85). -/
def stDeviceReset (S : Byte) : Bool := S.getLsbD 4

/-- Status bit 5, SBR: single-bit result; in a triplet, the first probe bit. -/
def stSingleBit (S : Byte) : Bool := S.getLsbD 5

/-- Status bit 6, TSB: the triplet's second probe bit. -/
def stTripletSecond (S : Byte) : Bool := S.getLsbD 6

/-- Status bit 7, DIR: the branch direction taken. -/
def stDirection (S : Byte) : Bool := S.getLsbD 7

/-- HSR while an operation runs: BUSY = 1, ILLEGAL = 0 (10_state.md R25). -/
def hsrAccepted : Byte := 0x01

/-- HSR after an illegal request: BUSY = 0, ILLEGAL = 1 (10_state.md R25). -/
def hsrIllegalRequest : Byte := 0x02

/-- `HSR[0] <- 0` at completion (10_state.md R25). -/
def hsrCompleted (h : Byte) : Byte := h &&& 0xFE

/-- What the host reads at HSR: bits 7:2 always read 0 (10_state.md R23). -/
def hsrRead (h : Byte) : Byte := h &&& 0x03

/-- HSR bit 0, BUSY. -/
def hsrBusy (h : Byte) : Bool := h.getLsbD 0

/-- HSR bit 1, ILLEGAL. -/
def hsrIllegal (h : Byte) : Bool := h.getLsbD 1

/-- CFG bit 0, APU: active pullup (10_state.md R26). -/
def cfgActivePullup (c : BitVec 4) : Bool := c.getLsbD 0

/-- CFG bit 1, PPM: presence-pulse masking. -/
def cfgPulseMasking (c : BitVec 4) : Bool := c.getLsbD 1

/-- CFG bit 2, SPU: strong pullup. -/
def cfgStrongPullup (c : BitVec 4) : Bool := c.getLsbD 2

/-- CFG bit 3, 1WS: one-wire speed. -/
def cfgSpeed (c : BitVec 4) : Bool := c.getLsbD 3

/-- The configuration with SPU set, `CFG | 0x4` (42_bus.md R132). -/
def withStrongPullup (c : BitVec 4) : BitVec 4 := c ||| 0x4

/-- The configuration with SPU clear, `CFG & ~0x4` (42_bus.md R131). -/
def withoutStrongPullup (c : BitVec 4) : BitVec 4 := c &&& ~~~0x4

/-- The configuration DETECT writes: standard speed, no strong pullup, no presence-pulse masking, active
pullup enabled (30_encoding.md R91, 41_bridge.md R112). -/
def detectConfig : BitVec 4 := 0x1

/-- The device-reset acknowledgement: the reply under the mask equals the pattern (41_bridge.md R108). -/
def resetAcknowledged (mask pattern reply : Byte) : Bool := (reply &&& mask) == pattern

/-- The configuration echo: the low nibble of the reply equals c; the upper nibble is ignored
(41_bridge.md R110). -/
def echoMatches (c : BitVec 4) (reply : Byte) : Bool := reply.extractLsb' 0 4 == c

end Sys2Proof.Machine
end

