-- ==== Sys2Proof/Machine/State.lean ====
section
/-! DEFINITION. The state of the block as plain data, the reasons a step can stop, the state after block
reset (10_state.md R49), and one named update per field. -/

namespace Sys2Proof.Machine

/-- Bytes by host address, in canonical form: addresses strictly rising. An unlisted address has no
value (10_state.md R49, log entry 6). -/
abbrev Memory := List Host.Cell

/-- One entry of the bridge event history (10_state.md R38): `txn` is a BridgeTxn of one or two written
bytes (00_scope.md R16), `read` a BridgeRead; each with the byte returned. -/
inductive Frame where
  | txn (cmd : Byte) (arg : Option Byte) (reply : Byte)
  | read (reply : Byte)
deriving DecidableEq, Repr

/-- What the outside can ask of the block next. `issue`, `memRead` and `memWrite` are the host's three
actions (20_memory.md R54, R57; n is the access width in bytes, 00_scope.md R15). `frame` hands the
bridge port one frame's bytes directly; it is the model's own way of running one bridge row of the opcode
table by itself (log entry 10). -/
inductive PortEvent where
  | issue (req : Word)
  | memRead (addr : Addr) (n : Nat)
  | memWrite (addr : Addr) (n : Nat) (v : Byte)
  | frame (bytes : List Byte)
deriving DecidableEq, Repr

/-- Why the machine stops with a fault. -/
inductive Fault where
  /-- Raised by BLOCK when it would send BUF[index] and no host write has set that byte (10_state.md R49,
  60_exceptions.md R189). Safe: the block itself would go on with an unspecified byte. -/
  | bufByteUnset (index : Nat)
deriving DecidableEq, Repr

/-- Why a step is refused: the spec gives it no meaning. -/
inductive Refusal where
  /-- Raised by `exec` for an instruction that has no meaning yet. Safe. -/
  | notModelled (mnemonic : String)
  /-- Raised by `step` for a host action while HSR.BUSY = 1 (70_reset_and_hazards.md R194). Safe: it
  cannot occur at the transaction level. -/
  | hostAccessWhileBusy
  /-- Raised by `step` for a host access of a width other than one byte (00_scope.md R15). Safe. -/
  | accessWidth
  /-- Raised by BRIDGE_WRITE_BYTE_WITH_POWER: no rule issues the command and its value is unknown
  (30_encoding.md R93). Safe. -/
  | noRuleIssuesCommand
  /-- Raised by `step` when bytes handed to the bridge port are no frame of 30_encoding.md R86. Safe: the
  block never sends such a frame. -/
  | notABridgeFrame
deriving DecidableEq, Repr

/-- The state of the block between two host-visible steps (10_state.md). The sequencer's variables of
10_state.md R39 to R43 live inside one step only and are gone when it ends (20_memory.md R68), so they
are variables of the definitions that use them (log entry 13). -/
@[ext]
structure State where
  /-- The parameters of 00_scope.md R9; no step changes them (log entry 1). -/
  params : Params
  /-- RESULT: the value the last completed legal operation returned (10_state.md R24). -/
  result : Byte
  /-- HSR: bit 0 BUSY, bit 1 ILLEGAL (10_state.md R23). -/
  hsr : Byte
  /-- CFG: shadow of the bridge configuration last acknowledged (10_state.md R26). -/
  cfg : BitVec 4
  /-- SHORT: last observed short-detected flag (10_state.md R28). -/
  short : Bool
  /-- LD, LastDiscrepancy: a bit position 0..64 (10_state.md R29). -/
  ld : BitVec 7
  /-- LFD, LastFamilyDiscrepancy: a bit position 0..8 (10_state.md R30). -/
  lfd : BitVec 4
  /-- LDF, LastDeviceFlag (10_state.md R31). -/
  ldf : Bool
  /-- CRC8: the running CRC-8 accumulator (10_state.md R32). -/
  crc8 : Byte
  /-- ROM[0..7]: the identifier buffer (10_state.md R33). -/
  rom : Vector Byte 8
  /-- The model's own: bit k of byte i is set once a pass has written bit k of ROM[i]; a bit never
  written is unspecified (10_state.md R49, R50, log entry 5). -/
  romSet : Vector Byte 8
  /-- BUF[i] at host address 0x0100 + i, the bytes that have been set (10_state.md R37). -/
  buf : Memory
  /-- HIST: the frames issued, oldest first (10_state.md R38). -/
  hist : List Frame
  /-- The model's own: the host actions to come, next first (log entry 9). -/
  port : List PortEvent
  /-- The model's own: the bridge's answers to come, next first; once they are used up, the answers are
  `Config.bridgeAnswer` (log entry 4). -/
  replies : List Byte
  /-- The model's own: how many free values have been drawn (log entry 7). -/
  draws : Nat
  /-- The model's own: what the last host MemRead returned, if there was one (log entry 12). -/
  readData : Option Byte
deriving DecidableEq, Repr

/-- The state after block reset: the values of 10_state.md R49. ROM and BUF are unspecified there: no bit
of ROM counts as written and no BUF byte is listed. Nothing is pending at the port, and the bridge has no
scripted answers. -/
def State.reset : State where
  params := defaultParams
  result := 0x00
  hsr := 0x00
  cfg := 0x0
  short := false
  ld := 0
  lfd := 0
  ldf := false
  crc8 := 0x00
  rom := Vector.replicate 8 0x00
  romSet := Vector.replicate 8 0x00
  buf := []
  hist := []
  port := []
  replies := []
  draws := 0
  readData := none

/-- `RESULT <- v`. -/
def State.setResult (s : State) (v : Byte) : State := { s with result := v }

/-- `HSR <- v`. -/
def State.setHsr (s : State) (v : Byte) : State := { s with hsr := v }

/-- `CFG <- c`. -/
def State.setCfg (s : State) (c : BitVec 4) : State := { s with cfg := c }

/-- `SHORT <- b`. -/
def State.setShort (s : State) (b : Bool) : State := { s with short := b }

/-- `LD <- v`. -/
def State.setLd (s : State) (v : BitVec 7) : State := { s with ld := v }

/-- `LFD <- v`. -/
def State.setLfd (s : State) (v : BitVec 4) : State := { s with lfd := v }

/-- `LDF <- b`. -/
def State.setLdf (s : State) (b : Bool) : State := { s with ldf := b }

/-- `CRC8 <- v`. -/
def State.setCrc8 (s : State) (v : Byte) : State := { s with crc8 := v }

/-- A write of ROM, with the record of which of its bits have been written. -/
def State.setRom (s : State) (rom romSet : Vector Byte 8) : State :=
  { s with rom := rom, romSet := romSet }

/-- A write of BUF. -/
def State.setBuf (s : State) (m : Memory) : State := { s with buf := m }

/-- The host actions still to come. -/
def State.setPort (s : State) (es : List PortEvent) : State := { s with port := es }

/-- What the last host MemRead returned. -/
def State.setReadData (s : State) (v : Option Byte) : State := { s with readData := v }

/-- The count of free values drawn. -/
def State.setDraws (s : State) (n : Nat) : State := { s with draws := n }

/-- The frames `fs` have been issued and answered: they are at the end of HIST, and as many answers of
the bridge have been used up. -/
def State.answered (s : State) (fs : List Frame) : State :=
  { s with
    hist := s.hist ++ fs
    replies := s.replies.drop fs.length
    draws := s.draws + (fs.length - s.replies.length) }

end Sys2Proof.Machine
end

