-- ==== Sys2Proof/Machine/Ops.lean ====
section
/-! DEFINITION. The named operations over registers, memory, the bridge port and the request port; among
them IllegalRequest, the block's one exception (60_exceptions.md R170). There is no return from an
exception (60_exceptions.md R176). -/

namespace Sys2Proof.Machine

/-! ### The bridge port -/

/-- The byte the bridge answers to the k-th frame from now on: a scripted answer while there is one,
otherwise an oracle draw (00_scope.md R16, log entry 4). -/
def State.answer (s : State) (k : Nat) : Byte :=
  match s.replies[k]? with
  | some r => r
  | none => Config.bridgeAnswer (s.draws + (k - s.replies.length))

/-- `BridgeTxn(cmd)` or `BridgeTxn(cmd, arg)`: one frame of one or two written bytes (00_scope.md R16). -/
def bridgeTxn (cmd : Byte) (arg : Option Byte) (s : State) : Byte × State :=
  (s.answer 0, s.answered [.txn cmd arg (s.answer 0)])

/-- `BridgeRead()`: one frame that reads a byte without writing any (00_scope.md R16). -/
def bridgeRead (s : State) : Byte × State :=
  (s.answer 0, s.answered [.read (s.answer 0)])

/-- A condition or byte on the register bus within one frame (20_memory.md R58). -/
inductive BusEvent where
  | start
  | byteWritten (b : Byte)
  | repeatedStart
  | byteRead (b : Byte)
  | stop
deriving DecidableEq, Repr

/-- One frame on the register bus, at the bridge's address: start, the address byte for writing and the
written bytes, repeated start, the address byte for reading, one byte read, stop. A BridgeRead omits the
write part (20_memory.md R58; the bus-level framing is general knowledge there). -/
def Frame.onBus : Frame → List BusEvent
  | .txn cmd arg reply =>
    [.start, .byteWritten (Config.bridgeAddr ++ 0#1), .byteWritten cmd]
      ++ arg.toList.map .byteWritten
      ++ [.repeatedStart, .byteWritten (Config.bridgeAddr ++ 1#1), .byteRead reply, .stop]
  | .read reply => [.start, .byteWritten (Config.bridgeAddr ++ 1#1), .byteRead reply, .stop]

/-- The byte a frame returned. -/
def Frame.reply : Frame → Byte
  | .txn _ _ r => r
  | .read r => r

/-- The bytes a frame wrote (30_encoding.md R87). -/
def Frame.written : Frame → List Byte
  | .txn cmd arg _ => cmd :: arg.toList
  | .read _ => []

/-! ### The transfer buffer -/

/-- The byte at an address, if it has been set. -/
def Memory.read : Memory → Nat → Option Byte
  | [], _ => none
  | (k, w) :: m, a => if a = k then some w else Memory.read m a

/-- Storing a byte, in the canonical form. -/
def Memory.write : Memory → Nat → Byte → Memory
  | [], a, v => [(a, v)]
  | (k, w) :: m, a, v =>
    if a < k then (a, v) :: (k, w) :: m
    else if a = k then (a, v) :: m
    else (k, w) :: Memory.write m a v

/-- The canonical form: addresses strictly rising. No listed byte can equal what an unlisted address
reads as, since an unlisted address has no value. -/
def Memory.wf : Memory → Bool
  | [] => true
  | [_] => true
  | (a, _) :: (b, w) :: m => decide (a < b) && Memory.wf ((b, w) :: m)

/-- The host address of BUF[i] (20_memory.md R55). -/
def bufAddr (i : Nat) : Nat := 0x0100 + i

/-- Whether a host address is that of a buffer byte: 0x0100 + i with i < P_BUF_SIZE (20_memory.md R55). -/
def inBuf (P : Params) (a : Nat) : Bool := decide (0x0100 ≤ a) && decide (a < 0x0100 + P.bufSize)

/-- BUF[i], if it has been set. -/
def State.bufByte (s : State) (i : Nat) : Option Byte := s.buf.read (bufAddr i)

/-- `BUF[i] <- v`. -/
def State.writeBuf (s : State) (i : Nat) (v : Byte) : State := s.setBuf (s.buf.write (bufAddr i) v)

/-! ### The identifier buffer -/

/-- ROM[i]. -/
def State.romByte (s : State) (i : Nat) : Byte := s.rom.getD i 0

/-- The bits of ROM[i] that a pass has written. -/
def State.romSetByte (s : State) (i : Nat) : Byte := s.romSet.getD i 0

/-- The byte index of bit position p, `(p - 1) div 8` (20_memory.md R62). -/
def romIndex (p : Nat) : Nat := (p - 1) / 8

/-- The bit mask of bit position p in its byte, `1 << ((p - 1) mod 8)`: the least significant bit comes
first (20_memory.md R62). -/
def romMask (p : Nat) : Byte := 1#8 <<< ((p - 1) % 8)

/-- The ROM bit at position p. -/
def State.romBit (s : State) (p : Nat) : Bool := (s.romByte (romIndex p) &&& romMask p) != 0

/-- A byte with the masked bits set or cleared. -/
def maskedWrite (old mask : Byte) (bit : Bool) : Byte :=
  if bit then old ||| mask else old &&& ~~~mask

/-- `ROM[i] <- ROM[i] | m` or `ROM[i] <- ROM[i] & ~m` for bit position p (44_search.md R156). -/
def State.writeRomBit (s : State) (p : Nat) (bit : Bool) : State :=
  s.setRom
    (s.rom.setIfInBounds (romIndex p) (maskedWrite (s.romByte (romIndex p)) (romMask p) bit))
    (s.romSet.setIfInBounds (romIndex p) (s.romSetByte (romIndex p) ||| romMask p))

/-! ### The Search State -/

/-- `SEARCH_STATE_RESET()`: LD, LFD, LDF and CRC8 to zero; ROM, CFG and SHORT kept (44_search.md R148). -/
def searchStateReset (s : State) : State := (((s.setLd 0).setLfd 0).setLdf false).setCrc8 0x00

/-! ### The request port -/

/-- A legal request is accepted: `HSR <- 0x01` (10_state.md R25, 41_bridge.md R100). -/
def accept (s : State) : State := s.setHsr hsrAccepted

/-- An operation completes with value v: `RESULT <- v`, then `HSR[0] <- 0` (41_bridge.md R101). -/
def complete (v : Byte) (s : State) : State :=
  (s.setResult v).setHsr (hsrCompleted (s.setResult v).hsr)

/-- A legal operation whose pseudocode is `body`: acceptance, the pseudocode, completion. -/
def operate (body : State → Byte × State) (s : State) : Host.Outcome State Fault Refusal :=
  .next (complete (body (accept s)).1 (body (accept s)).2)

/-- A legal operation whose pseudocode can reach a fault. -/
def operateOrFault (body : State → Except Fault (Byte × State)) (s : State) :
    Host.Outcome State Fault Refusal :=
  match body (accept s) with
  | .ok r => .next (complete r.1 r.2)
  | .error e => .fault e

/-- IllegalRequest: `HSR <- 0x02`; every other register is unchanged and no frame is issued
(60_exceptions.md R170). -/
def raiseIllegalRequest (s : State) : State := s.setHsr hsrIllegalRequest

/-! ### The host register space -/

/-- A byte the spec leaves unspecified: an oracle draw (92_eei_decisions.md D22). -/
def drawUnset (s : State) : Byte × State := (Config.unsetByte s.draws, s.setDraws (s.draws + 1))

/-- The byte at a host address, where the spec fixes it: the map of 20_memory.md R55, narrow registers
zero-extended (R57), reserved addresses 0x00 (R56). `none` where some bit of it is unspecified: a ROM
byte not wholly written, a BUF byte not set (10_state.md R49). -/
def State.hostByte (s : State) (a : Nat) : Option Byte :=
  if a = 0x0000 then some s.result
  else if a = 0x0001 then some (hsrRead s.hsr)
  else if a = 0x0002 then some (s.cfg.zeroExtend 8)
  else if a = 0x0003 then some (bitByte s.short)
  else if a = 0x0004 then some (s.ld.zeroExtend 8)
  else if a = 0x0005 then some (s.lfd.zeroExtend 8)
  else if a = 0x0006 then some (bitByte s.ldf)
  else if a = 0x0007 then some s.crc8
  else if a < 0x0010 then
    (if s.romSetByte (a - 0x0008) = 0xFF then some (s.romByte (a - 0x0008)) else none)
  else if inBuf s.params a then s.buf.read a
  else some 0x00

/-- The bits of the byte at a host address that the spec fixes, where it does not fix all of them: the
written bits of a ROM byte, no bit of a BUF byte. As (mask, value). -/
def State.partialByte (s : State) (a : Nat) : Byte × Byte :=
  if a < 0x0010 then (s.romSetByte (a - 0x0008), s.romByte (a - 0x0008)) else (0x00, 0x00)

/-- `MemRead(addr, 1)`: the byte at the address; every bit the spec leaves unspecified is drawn
(20_memory.md R57, 93_implementation_defined.md I6, I7). A read has no other effect. -/
def hostRead (addr : Addr) (s : State) : Byte × State :=
  match s.hostByte addr.toNat with
  | some v => (v, s)
  | none =>
    (((s.partialByte addr.toNat).2 &&& (s.partialByte addr.toNat).1)
        ||| ((drawUnset s).1 &&& ~~~(s.partialByte addr.toNat).1), (drawUnset s).2)

/-- `MemWrite(addr, 1, v)`: a buffer byte is stored; a write to a read-only register or to a reserved
address has no effect (20_memory.md R56, R57). -/
def hostWrite (addr : Addr) (v : Byte) (s : State) : State :=
  if inBuf s.params addr.toNat then s.setBuf (s.buf.write addr.toNat v) else s

end Sys2Proof.Machine
end

