-- ==== Sys2Proof/Machine/Bridge.lean ====
section
/-! DEFINITION. Bridge transport and lifecycle (41_bridge.md): the procedures COMMAND, COMMAND_WAIT,
BRIDGE_RESET_SEQ and WRITE_CONFIG_SEQ, and the operations BRIDGE_RESET, DETECT and WRITE_CONFIG. -/

namespace Sys2Proof.Machine

/-- `COMMAND(cmd [, arg])` (41_bridge.md R102, R103): one frame; the reply byte is returned. -/
def command (cmd : Byte) (arg : Option Byte) (s : State) : Byte × State := bridgeTxn cmd arg s

/-- The poll loop of 41_bridge.md R107: `left` re-reads are still permitted (P_POLL_LIMIT - n), `S` is
the latest snapshot. -/
def poll : Nat → Byte → State → Byte × State
  | 0, S, s => (S, s)
  | left + 1, S, s =>
    if stBusy S then
      match bridgeRead s with
      | (S', s') => poll left S' s'
    else (S, s)

/-- `BRIDGE_RESET_SEQ()` (41_bridge.md R108): a device-reset frame, not polled; succeeds iff the masked
reply equals the acknowledgement pattern. -/
def bridgeResetSeq (s : State) : Bool × State :=
  match command s.params.cmdDrst none s with
  | (R, s') => (resetAcknowledged s.params.resetAckMask s.params.resetAck R, s')

/-- `COMMAND_WAIT(cmd [, arg])` (41_bridge.md R107): the frame, then up to P_POLL_LIMIT re-reads while
1WB = 1; if it is still 1, one bridge reset and the sentinel 0x00. -/
def commandWait (cmd : Byte) (arg : Option Byte) (s : State) : Byte × State :=
  match command cmd arg s with
  | (S, s1) =>
    match poll s.params.pollLimit S s1 with
    | (S', s2) => if stBusy S' then (0x00, (bridgeResetSeq s2).2) else (S', s2)

/-- `WRITE_CONFIG_SEQ(c)` (41_bridge.md R110): not polled; CFG changes only on a matching echo, and a
mismatch resets the bridge. -/
def writeConfigSeq (c : BitVec 4) (s : State) : Bool × State :=
  match command s.params.cmdWcfg (some (wcfg c)) s with
  | (R, s1) => if echoMatches c R then (true, s1.setCfg c) else (false, (bridgeResetSeq s1).2)

/-- BRIDGE_RESET (41_bridge.md R109). -/
def execBridgeReset (s : State) : Host.Outcome State Fault Refusal :=
  operate (fun s =>
    match bridgeResetSeq s with
    | (ok, s') => (bitByte ok, s')) s

/-- DETECT (41_bridge.md R112): bridge reset, then the default configuration; a failed reset issues no
write-configuration frame. -/
def execDetect (s : State) : Host.Outcome State Fault Refusal :=
  operate (fun s =>
    match bridgeResetSeq s with
    | (false, s1) => (0x00, s1)
    | (true, s1) =>
      match writeConfigSeq detectConfig s1 with
      | (ok, s2) => (bitByte ok, s2)) s

/-- WRITE_CONFIG c (41_bridge.md R111). -/
def execWriteConfig (c : BitVec 4) (s : State) : Host.Outcome State Fault Refusal :=
  operate (fun s =>
    match writeConfigSeq c s with
    | (ok, s') => (bitByte ok, s')) s

end Sys2Proof.Machine
end

