-- ==== Sys2Proof/Machine/Frames.lean ====
section
/-! DEFINITION. The bridge rows of the opcode table (30_encoding.md R86), each as the one frame it is:
COMMAND of its opcode and argument, whose "only effect is the frame appended to HIST" (41_bridge.md R102,
R103). The reply goes to the caller, and a frame by itself has none (log entry 10). -/

namespace Sys2Proof.Machine

/-- Device-reset (41_bridge.md R108). -/
def execBridgeDeviceReset (s : State) : Host.Outcome State Fault Refusal :=
  .next (command s.params.cmdDrst none s).2

/-- Write-configuration, argument `c | ((~c) << 4)` (30_encoding.md R90). -/
def execBridgeWriteConfig (c : BitVec 4) (s : State) : Host.Outcome State Fault Refusal :=
  .next (command s.params.cmdWcfg (some (wcfg c)) s).2

/-- Bus-reset (42_bus.md R119). -/
def execBridgeBusReset (s : State) : Host.Outcome State Fault Refusal :=
  .next (command s.params.cmd1wrs none s).2

/-- Single-bit, argument 0x80 or 0x00 (30_encoding.md R88). -/
def execBridgeSingleBit (b : Bool) (s : State) : Host.Outcome State Fault Refusal :=
  .next (command s.params.cmd1wsb (some (bitArg b)) s).2

/-- Write-byte (42_bus.md R125). -/
def execBridgeWriteByte (v : Byte) (s : State) : Host.Outcome State Fault Refusal :=
  .next (command s.params.cmd1wwb (some v) s).2

/-- Read-byte (42_bus.md R127). -/
def execBridgeReadByte (s : State) : Host.Outcome State Fault Refusal :=
  .next (command s.params.cmd1wrb none s).2

/-- Set-read-pointer to the data register (42_bus.md R127). -/
def execBridgeSetReadPointer (s : State) : Host.Outcome State Fault Refusal :=
  .next (command s.params.cmdSrp (some s.params.ptrData) s).2

/-- Triplet, argument 0x80 or 0x00 (30_encoding.md R89). -/
def execBridgeTriplet (d : Bool) (s : State) : Host.Outcome State Fault Refusal :=
  .next (command s.params.cmd1wt (some (bitArg d)) s).2

/-- Write-byte-with-power: "No rule issues the write-byte-with-power opcode, and its value is unknown"
(30_encoding.md R93), so there is no frame to send and no effect to give (log entry 3). -/
def execBridgeWriteByteWithPower (_s : State) : Host.Outcome State Fault Refusal :=
  .refused .noRuleIssuesCommand

end Sys2Proof.Machine
end

