-- ==== Sys2Proof/Machine/Bus.lean ====
section
/-! DEFINITION. Bus primitives (42_bus.md): bus reset, bit, byte and block transfer, and the
power-delivery operations. -/

namespace Sys2Proof.Machine

/-- `BUS_RESET_SEQ()` (42_bus.md R119): SHORT takes the short-detected bit, the presence bit is
returned. -/
def busResetSeq (s : State) : Bool × State :=
  match commandWait s.params.cmd1wrs none s with
  | (S, s') => (stPresence S, s'.setShort (stShort S))

/-- `TOUCH_BIT_SEQ(b)` (42_bus.md R121). -/
def touchBitSeq (b : Bool) (s : State) : Bool × State :=
  match commandWait s.params.cmd1wsb (some (bitArg b)) s with
  | (S, s') => (stSingleBit S, s')

/-- `WRITE_BYTE_SEQ(v)` (42_bus.md R125): the snapshot is discarded. -/
def writeByteSeq (v : Byte) (s : State) : State := (commandWait s.params.cmd1wwb (some v) s).2

/-- `READ_BYTE_SEQ()` (42_bus.md R127): the pointer switch is issued even after a timeout. -/
def readByteSeq (s : State) : Byte × State :=
  match commandWait s.params.cmd1wrb none s with
  | (_, s') => command s.params.cmdSrp (some s.params.ptrData) s'

/-- `TOUCH_BYTE_SEQ(v)` (42_bus.md R129): 0xFF is a pure read, any other byte is written and echoed. -/
def touchByteSeq (v : Byte) (s : State) : Byte × State :=
  if v = 0xFF then readByteSeq s else (v, writeByteSeq v s)

/-- The loop of BLOCK (42_bus.md R130), from index i for `left` more bytes:
`BUF[i] <- TOUCH_BYTE_SEQ(BUF[i])`. A byte no host write has set is a fault (10_state.md R49). -/
def blockLoop : Nat → Nat → State → Except Fault State
  | 0, _, s => .ok s
  | left + 1, i, s =>
    match s.bufByte i with
    | none => .error (.bufByteUnset i)
    | some v =>
      match touchByteSeq v s with
      | (b, s') => blockLoop left (i + 1) (s'.writeBuf i b)

/-- `SET_LEVEL_SEQ(L)` (42_bus.md R131): STRONG is rejected with no frame; STANDARD writes the
configuration with SPU clear. -/
def setLevelSeq (l : Level) (s : State) : Byte × State :=
  match l with
  | .strong => (0x02, s)
  | .standard =>
    match writeConfigSeq (withoutStrongPullup s.cfg) s with
    | (true, s') => (0x00, s')
    | (false, s') => (0x02, s')

/-- BUS_RESET (42_bus.md R120). -/
def execBusReset (s : State) : Host.Outcome State Fault Refusal :=
  operate (fun s =>
    match busResetSeq s with
    | (present, s') => (bitByte present, s')) s

/-- TOUCH_BIT b (42_bus.md R122). -/
def execTouchBit (b : Bool) (s : State) : Host.Outcome State Fault Refusal :=
  operate (fun s =>
    match touchBitSeq b s with
    | (r, s') => (bitByte r, s')) s

/-- WRITE_BIT b (42_bus.md R123): the received bit is discarded. -/
def execWriteBit (b : Bool) (s : State) : Host.Outcome State Fault Refusal :=
  operate (fun s => (0x00, (touchBitSeq b s).2)) s

/-- READ_BIT (42_bus.md R124): sends bit value 1. -/
def execReadBit (s : State) : Host.Outcome State Fault Refusal :=
  operate (fun s =>
    match touchBitSeq true s with
    | (r, s') => (bitByte r, s')) s

/-- WRITE_BYTE v (42_bus.md R126). -/
def execWriteByte (v : Byte) (s : State) : Host.Outcome State Fault Refusal :=
  operate (fun s => (0x00, writeByteSeq v s)) s

/-- READ_BYTE (42_bus.md R128). -/
def execReadByte (s : State) : Host.Outcome State Fault Refusal := operate readByteSeq s

/-- TOUCH_BYTE v (42_bus.md R129). -/
def execTouchByte (v : Byte) (s : State) : Host.Outcome State Fault Refusal :=
  operate (touchByteSeq v) s

/-- BLOCK n (42_bus.md R130). -/
def execBlock (n : BitVec 9) (s : State) : Host.Outcome State Fault Refusal :=
  operateOrFault (fun s =>
    match blockLoop n.toNat 0 s with
    | .ok s' => .ok (0x00, s')
    | .error e => .error e) s

/-- SET_LEVEL L (42_bus.md R131). -/
def execSetLevel (l : Level) (s : State) : Host.Outcome State Fault Refusal :=
  operate (setLevelSeq l) s

/-- WRITE_BIT_POWER b (42_bus.md R132): a failed configuration write issues no exchange; a received bit
other than b reverts to the standard level. -/
def execWriteBitPower (b : Bool) (s : State) : Host.Outcome State Fault Refusal :=
  operate (fun s =>
    match writeConfigSeq (withStrongPullup s.cfg) s with
    | (false, s1) => (0x00, s1)
    | (true, s1) =>
      match touchBitSeq s.params.wbpSendBit s1 with
      | (r, s2) => if r = b then (0x01, s2) else (0x00, (setLevelSeq .standard s2).2)) s

/-- WRITE_BYTE_POWER v (42_bus.md R133): a failed configuration write sends no byte. -/
def execWriteBytePower (v : Byte) (s : State) : Host.Outcome State Fault Refusal :=
  operate (fun s =>
    match writeConfigSeq (withStrongPullup s.cfg) s with
    | (false, s1) => (0x00, s1)
    | (true, s1) => (0x01, writeByteSeq v s1)) s

end Sys2Proof.Machine
end

