-- ==== Sys2Proof/Machine/Search.lean ====
section
/-! DEFINITION. The ROM-search state machine and the triplet engine (44_search.md): TRIPLET_SEQ, the
pass SEARCH, and the operations SEARCH_FIRST, SEARCH_NEXT, ALARM_FIRST, ALARM_NEXT and TRIPLET. -/

namespace Sys2Proof.Machine

/-- The search cursor of 10_state.md R41, held during one pass. `rom_byte_number` and `rom_byte_mask` are
`romIndex` and `romMask` of the bit position. -/
structure Cursor where
  /-- The current bit position, 1..65. -/
  idBitNumber : Nat
  /-- The last position where a discrepancy was resolved toward 0; 0 for none. -/
  lastZero : Nat
  /-- The direction requested, then the direction taken. -/
  searchDirection : Bool
  /-- First probe bit of the latest triplet. -/
  idBit : Bool
  /-- Second probe bit of the latest triplet. -/
  cmpIdBit : Bool
deriving DecidableEq, Repr

/-- The cursor at the start of a pass: `id_bit_number <- 1; last_zero <- 0` (44_search.md R150). 10_state.md
R41 has the other variables initialised too and gives no values. DESIGN CHOICE (log entry 19): false for the
direction and both probe bits; `probeBit` writes all three before anything reads them. -/
def Cursor.start : Cursor := ⟨1, 0, false, false, false⟩

/-- The one-wire ROM command of the standard search (44_search.md R149). -/
def romSearchCommand : Byte := 0xF0

/-- The one-wire ROM command of the alarm-only search (44_search.md R149). -/
def alarmSearchCommand : Byte := 0xEC

/-- `TRIPLET_SEQ(d)` (44_search.md R158). -/
def tripletSeq (d : Bool) (s : State) : Byte × State :=
  commandWait s.params.cmd1wt (some (bitArg d)) s

/-- The steering direction at bit position p (44_search.md R153): replay ROM before LD, 1 at LD, 0 after. -/
def steer (s : State) (p : Nat) : Bool :=
  if p < s.ld.toNat then s.romBit p else p == s.ld.toNat

/-- Steps 4 and 5 at one bit position: the triplet with the steering direction, and its three facts in
the cursor (44_search.md R153, R155). -/
def probeBit (c : Cursor) (s : State) : Cursor × State :=
  match tripletSeq (steer s c.idBitNumber) s with
  | (S, s') =>
    ({ c with
        idBit := stSingleBit S
        cmpIdBit := stTripletSecond S
        searchDirection := stDirection S }, s')

/-- Whether the probe found a discrepancy taken toward 0 (44_search.md R154). -/
def Cursor.zeroBranch (c : Cursor) : Bool := !c.idBit && !c.cmpIdBit && !c.searchDirection

/-- Step 6: a discrepancy taken toward 0 is recorded, in LFD too when it lies in the family-code byte
(44_search.md R154). -/
def recordDiscrepancy (c : Cursor) (s : State) : Cursor × State :=
  if c.zeroBranch then
    ({ c with lastZero := c.idBitNumber },
      if c.idBitNumber ≤ 8 then s.setLfd (BitVec.ofNat 4 c.idBitNumber) else s)
  else (c, s)

/-- Step 7: the taken direction goes into ROM, a completed byte into the CRC, and the cursor advances
(44_search.md R156). -/
def assembleBit (c : Cursor) (s : State) : Cursor × State :=
  let s' := s.writeRomBit c.idBitNumber c.searchDirection
  ({ c with idBitNumber := c.idBitNumber + 1 },
    if c.idBitNumber % 8 = 0 then (crcStep (s'.romByte (romIndex c.idBitNumber)) s').2 else s')

/-- The loop of 44_search.md R150, with `left` bit positions still to come: it ends early, the bit not
written, when both probe bits are 1 (R155). -/
def searchLoop : Nat → Cursor → State → Cursor × State
  | 0, c, s => (c, s)
  | left + 1, c, s =>
    match probeBit c s with
    | (c1, s1) =>
      if c1.idBit && c1.cmpIdBit then (c1, s1)
      else
        match recordDiscrepancy c1 s1 with
        | (c2, s2) =>
          match assembleBit c2 s2 with
          | (c3, s3) => searchLoop left c3 s3

/-- Whether a pass that ended at cursor c succeeds: exactly 64 bits were processed and the running CRC is
zero (44_search.md R157). -/
def passValid (c : Cursor) (s : State) : Bool := c.idBitNumber == 65 && s.crc8 == 0x00

/-- Step 8, success: LD takes the last zero-branch position, and LDF is set where there is none
(44_search.md R157). -/
def recordSuccess (c : Cursor) (s : State) : State :=
  let s' := s.setLd (BitVec.ofNat 7 c.lastZero)
  if c.lastZero = 0 then s'.setLdf true else s'

/-- Steps 8 and 9: a valid pass is recorded; a pass that is not valid, or whose ROM[0] is 0x00, resets
the Search State and reports not-found (44_search.md R157, R159). -/
def finishPass (c : Cursor) (s : State) : Bool × State :=
  if passValid c s then
    if (recordSuccess c s).romByte 0 = 0x00 then (false, searchStateReset (recordSuccess c s))
    else (true, recordSuccess c s)
  else (false, searchStateReset s)

/-- `SEARCH(rc)`, one pass (44_search.md R150): step 1 the LastDeviceFlag exit, step 2 the bus reset,
step 3 the ROM command and the cleared CRC, then the loop and the end of the pass. -/
def search (rc : Byte) (s : State) : Bool × State :=
  if s.ldf then (false, if s.params.ldfExitResets then searchStateReset s else s)
  else
    match busResetSeq s with
    | (false, s1) => (false, searchStateReset s1)
    | (true, s1) =>
      match searchLoop 64 Cursor.start ((writeByteSeq rc s1).setCrc8 0x00) with
      | (c, s2) => finishPass c s2

/-- The pass as an operation: its outcome goes to RESULT (30_encoding.md R81). -/
def searchOp (rc : Byte) (s : State) : Byte × State :=
  match search rc s with
  | (found, s') => (bitByte found, s')

/-- SEARCH_FIRST (44_search.md R160). -/
def execSearchFirst (s : State) : Host.Outcome State Fault Refusal :=
  operate (fun s => searchOp romSearchCommand (searchStateReset s)) s

/-- SEARCH_NEXT (44_search.md R161). -/
def execSearchNext (s : State) : Host.Outcome State Fault Refusal :=
  operate (searchOp romSearchCommand) s

/-- ALARM_FIRST (44_search.md R162). -/
def execAlarmFirst (s : State) : Host.Outcome State Fault Refusal :=
  operate (fun s => searchOp alarmSearchCommand (searchStateReset s)) s

/-- ALARM_NEXT (44_search.md R163). -/
def execAlarmNext (s : State) : Host.Outcome State Fault Refusal :=
  operate (searchOp alarmSearchCommand) s

/-- TRIPLET d (44_search.md R164): RESULT takes the raw status snapshot. -/
def execTriplet (d : Bool) (s : State) : Host.Outcome State Fault Refusal :=
  operate (tripletSeq d) s

end Sys2Proof.Machine
end

