-- ==== Sys2Proof/Machine/Dispatch.lean ====
section
/-! DEFINITION. The one match from an instruction to its meaning. -/

namespace Sys2Proof.Machine

def exec (i : Instr) (s : State) : Host.Outcome State Fault Refusal :=
  match i with
  -- lifecycle (41_bridge.md)
  | .bridgeReset => Sys2Proof.Machine.execBridgeReset s
  | .detect => Sys2Proof.Machine.execDetect s
  | .writeConfig c => Sys2Proof.Machine.execWriteConfig c s
  -- bus primitives (42_bus.md)
  | .busReset => Sys2Proof.Machine.execBusReset s
  | .touchBit b => Sys2Proof.Machine.execTouchBit b s
  | .writeBit b => Sys2Proof.Machine.execWriteBit b s
  | .readBit => Sys2Proof.Machine.execReadBit s
  | .writeByte v => Sys2Proof.Machine.execWriteByte v s
  | .readByte => Sys2Proof.Machine.execReadByte s
  | .touchByte v => Sys2Proof.Machine.execTouchByte v s
  | .block n => Sys2Proof.Machine.execBlock n s
  | .setLevel l => Sys2Proof.Machine.execSetLevel l s
  | .writeBitPower b => Sys2Proof.Machine.execWriteBitPower b s
  | .writeBytePower v => Sys2Proof.Machine.execWriteBytePower v s
  -- CRC-8 validator (43_crc.md)
  | .crcClear => Sys2Proof.Machine.execCrcClear s
  | .crcUpdate v => Sys2Proof.Machine.execCrcUpdate v s
  -- search (44_search.md)
  | .searchFirst => Sys2Proof.Machine.execSearchFirst s
  | .searchNext => Sys2Proof.Machine.execSearchNext s
  | .alarmFirst => Sys2Proof.Machine.execAlarmFirst s
  | .alarmNext => Sys2Proof.Machine.execAlarmNext s
  | .triplet d => Sys2Proof.Machine.execTriplet d s
  -- bridge frames (30_encoding.md R86)
  | .bridgeDeviceReset => Sys2Proof.Machine.execBridgeDeviceReset s
  | .bridgeWriteConfig c => Sys2Proof.Machine.execBridgeWriteConfig c s
  | .bridgeBusReset => Sys2Proof.Machine.execBridgeBusReset s
  | .bridgeSingleBit b => Sys2Proof.Machine.execBridgeSingleBit b s
  | .bridgeWriteByte v => Sys2Proof.Machine.execBridgeWriteByte v s
  | .bridgeReadByte => Sys2Proof.Machine.execBridgeReadByte s
  | .bridgeSetReadPointer => Sys2Proof.Machine.execBridgeSetReadPointer s
  | .bridgeTriplet d => Sys2Proof.Machine.execBridgeTriplet d s
  | .bridgeWriteByteWithPower => Sys2Proof.Machine.execBridgeWriteByteWithPower s

end Sys2Proof.Machine
end

