-- ==== Sys2Proof/Machine/Port.lean ====
section
/-! DEFINITION. What the block does with one host action, and with the bytes of one bridge frame. -/

namespace Sys2Proof.Machine

/-- `Issue(req)` (20_memory.md R54, 41_bridge.md R100): a legal request runs its operation; a word the
decoder rejects raises IllegalRequest. -/
def runIssue (req : Word) (s : State) : Host.Outcome State Fault Refusal :=
  match decode s.params (.request req) with
  | .ok i => exec i s
  | .error _ => .next (raiseIllegalRequest s)

/-- `MemRead(addr, n)`: one byte wide, any other width is refused (00_scope.md R15). -/
def runMemRead (addr : Addr) (n : Nat) (s : State) : Host.Outcome State Fault Refusal :=
  if n = 1 then .next ((hostRead addr s).2.setReadData (some (hostRead addr s).1))
  else .refused .accessWidth

/-- `MemWrite(addr, n, v)`: one byte wide, any other width is refused (00_scope.md R15). -/
def runMemWrite (addr : Addr) (n : Nat) (v : Byte) (s : State) : Host.Outcome State Fault Refusal :=
  if n = 1 then .next (hostWrite addr v s) else .refused .accessWidth

/-- The bytes of one frame at the bridge port: the bridge command they stand for (30_encoding.md R86). -/
def runFrame (bytes : List Byte) (s : State) : Host.Outcome State Fault Refusal :=
  match decode s.params (.frame bytes) with
  | .ok i => exec i s
  | .error _ => .refused .notABridgeFrame

/-- One action from the outside. -/
def runEvent (e : PortEvent) (s : State) : Host.Outcome State Fault Refusal :=
  match e with
  | .issue req => runIssue req s
  | .memRead addr n => runMemRead addr n s
  | .memWrite addr n v => runMemWrite addr n v s
  | .frame bytes => runFrame bytes s

/-- The next action at the port, taken from it: refused while HSR.BUSY = 1 (70_reset_and_hazards.md R194);
with nothing pending the block waits (log entry 9). -/
def runPort (s : State) : Host.Outcome State Fault Refusal :=
  match s.port with
  | [] => .next s
  | e :: rest =>
    if hsrBusy s.hsr then .refused .hostAccessWhileBusy else runEvent e (s.setPort rest)

/-- The action that hands a code to the block. -/
def eventOfCode : Code → PortEvent
  | .request req => .issue req
  | .frame bytes => .frame bytes

end Sys2Proof.Machine
end

