-- ==== Sys2Proof/Machine/Step.lean ====
section
/-! DEFINITION. One step of the machine: the next action at the port, run to completion (20_memory.md
R68). -/

namespace Sys2Proof.Machine

/-- One host-visible step (92_eei_decisions.md D1). -/
def step (s : State) : Host.Outcome State Fault Refusal := runPort s

/-- The state with one row of the opcode table next at the port. The block fetches no instruction: its
program is the host's request stream (10_state.md R39, log entry 9), so this is the host issuing that
request (or the bridge port being handed that frame) next. -/
def State.withFetchWord (s : State) (nbits w : Nat) : State :=
  s.setPort (eventOfCode (codeOfTable nbits w) :: s.port)

end Sys2Proof.Machine
end

