-- ==== Sys2Proof/Machine/Assembler.lean ====
section
/-! DEFINITION. The assembler notation of 30_encoding.md R95 to R99: reading a source line, assembling an
operation, the aliases, disassembly, and the host lines of R98. Notation has no effect on the block
(92_eei_decisions.md D32); the choices the rules leave open are in log entry 16. -/

namespace Sys2Proof.Machine

/-- The mnemonics of the operations with their OP values (30_encoding.md R79). -/
def mnemonics : List (String × Byte) :=
  [("BRIDGE_RESET", 0x01), ("DETECT", 0x02), ("WRITE_CONFIG", 0x03), ("BUS_RESET", 0x10),
   ("TOUCH_BIT", 0x11), ("WRITE_BIT", 0x12), ("READ_BIT", 0x13), ("WRITE_BYTE", 0x14),
   ("READ_BYTE", 0x15), ("TOUCH_BYTE", 0x16), ("BLOCK", 0x17), ("SET_LEVEL", 0x18),
   ("WRITE_BIT_POWER", 0x19), ("WRITE_BYTE_POWER", 0x1A)]
  ++ [("CRC_CLEAR", 0x20), ("CRC_UPDATE", 0x21), ("SEARCH_FIRST", 0x30), ("SEARCH_NEXT", 0x31),
   ("ALARM_FIRST", 0x32), ("ALARM_NEXT", 0x33), ("TRIPLET", 0x34)]

/-- The source's function names accepted as aliases (30_encoding.md R97). -/
def aliases : List (String × Byte) :=
  [("OWReset", 0x10), ("busReset", 0x10), ("OWTouchBit", 0x11), ("touchBit", 0x11),
   ("OWWriteBit", 0x12), ("writeBit", 0x12), ("OWReadBit", 0x13), ("readBit", 0x13),
   ("OWWriteByte", 0x14), ("writeByte", 0x14), ("OWReadByte", 0x15), ("readByte", 0x15),
   ("OWTouchByte", 0x16), ("touchByte", 0x16), ("OWBlock", 0x17), ("block", 0x17)]
  ++ [("OWLevel", 0x18), ("setLevel", 0x18), ("OWWriteBitPower", 0x19), ("writeBitPower", 0x19),
   ("OWWriteBytePower", 0x1A), ("writeBytePower", 0x1A), ("OWFirst", 0x30), ("first", 0x30),
   ("OWNext", 0x31), ("next", 0x31), ("searchTriplet", 0x34), ("updateCrc", 0x21),
   ("reset", 0x01), ("detect", 0x02), ("writeConfig", 0x03)]

/-! ### Reading a line -/

/-- Characters without blanks at either end. -/
def trimBlanks (cs : List Char) : List Char :=
  ((cs.dropWhile (· == ' ')).reverse.dropWhile (· == ' ')).reverse

/-- The pieces between separators. -/
def splitOn (sep : Char) : List Char → List (List Char)
  | [] => [[]]
  | c :: cs =>
    if c == sep then [] :: splitOn sep cs
    else
      match splitOn sep cs with
      | [] => [[c]]
      | p :: ps => (c :: p) :: ps

/-- The value of one digit in the base. -/
def digitValue (base : Nat) (c : Char) : Option Nat :=
  let n := c.toNat
  let d :=
    if 48 ≤ n ∧ n ≤ 57 then n - 48
    else if 65 ≤ n ∧ n ≤ 70 then n - 55
    else if 97 ≤ n ∧ n ≤ 102 then n - 87
    else base
  if d < base then some d else none

/-- The value of digits in the base, after the value read so far. -/
def readDigits (base : Nat) : Nat → List Char → Option Nat
  | acc, [] => some acc
  | acc, c :: cs =>
    match digitValue base c with
    | some d => readDigits base (base * acc + d) cs
    | none => none

/-- A number in decimal or 0x hexadecimal (30_encoding.md R95). R95 says nothing of leading zeros, and names
the two bases for a byte only. DESIGN CHOICE (log entry 16): leading zeros are read, and every number is read
in either base. -/
def readNumber : List Char → Option Nat
  | '0' :: 'x' :: c :: cs => readDigits 16 0 (c :: cs)
  | c :: cs => readDigits 10 0 (c :: cs)
  | [] => none

/-- A number below a bound. -/
def readBelow (bound : Nat) (cs : List Char) : Option Nat :=
  match readNumber cs with
  | some n => if n < bound then some n else none
  | none => none

/-- A source line: its label, its mnemonic (empty on a line without one) and its operands. -/
structure SourceLine where
  label : Option (List Char)
  head : List Char
  args : List (List Char)
deriving DecidableEq, Repr

/-- A statement without label: the mnemonic, and the operands at the commas. -/
def readStatement (label : Option (List Char)) (cs : List Char) : SourceLine :=
  let body := trimBlanks cs
  let rest := trimBlanks (body.dropWhile (· != ' '))
  { label := label
    head := body.takeWhile (· != ' ')
    args := if rest.isEmpty then [] else (splitOn ',' rest).map trimBlanks }

/-- `[label:] MNEMONIC [operand] [; comment]` (30_encoding.md R95). R95 does not say what a label may be made
of, nor what a line without a mnemonic is. DESIGN CHOICE (log entry 16): the label is whatever stands before
the first colon, and a line may hold only a label, only a comment or nothing. -/
def readLine (cs : List Char) : SourceLine :=
  let code := cs.takeWhile (· != ';')
  if code.contains ':' then
    readStatement (some (trimBlanks (code.takeWhile (· != ':')))) ((code.dropWhile (· != ':')).drop 1)
  else readStatement none code

/-! ### Operations -/

/-- The OP value of a mnemonic, in any letter case, or of an alias (30_encoding.md R95, R97). -/
def opOfName (name : List Char) : Option Byte :=
  match mnemonics.find? (fun row => row.1.toList == name.map Char.toUpper) with
  | some row => some row.2
  | none => (aliases.find? (fun row => row.1.toList == name)).map Prod.snd

/-- The operation a form and its written operands name; `none` is an assembly error: a missing or
superfluous operand, or one out of range (30_encoding.md R95). R95 gives a bit as `0` or `1` and does not say
whether another spelling of these values is an error. DESIGN CHOICE (log entry 16): a bit is read as a number
is, so 00, 01, 0x0 and 0x1 are bits too. -/
def operationOfArgs (P : Params) (form : OperandForm) (args : List (List Char)) : Option Instr :=
  match form, args with
  | .none i, [] => some i
  | .bit f, [a] => (readBelow 2 a).map fun n => f (n == 1)
  | .byte f, [a] => (readBelow 256 a).map fun n => f (BitVec.ofNat 8 n)
  | .nibble f, [a] => (readBelow 16 a).map fun n => f (BitVec.ofNat 4 n)
  | .level f, [a] =>
    if a == "STANDARD".toList then some (f .standard)
    else if a == "STRONG".toList then some (f .strong)
    else none
  | .length f, [a] => (readBelow (min (P.bufSize + 1) 512) a).map fun n => f (BitVec.ofNat 9 n)
  | _, _ => none

/-- The request word of an operation; a bridge frame has none. -/
def requestOf (P : Params) (i : Instr) : Option Word :=
  match encode P i with
  | .request req => some req
  | .frame _ => none

/-- Assembling one operation (30_encoding.md R96). -/
def assemble (P : Params) (line : SourceLine) : Option Word :=
  match opOfName line.head with
  | none => none
  | some op =>
    match operationMap.lookup op with
    | none => none
    | some form => (operationOfArgs P form line.args).bind (requestOf P)

/-! ### Disassembly -/

/-- One hexadecimal digit. -/
def hexDigit (n : Nat) : Char := "0123456789ABCDEF".toList.getD n '0'

/-- The lowest k hexadecimal digits of n, after 0x. -/
def hexDigits : Nat → Nat → List Char
  | 0, _ => []
  | k + 1, n => hexDigits k (n / 16) ++ [hexDigit (n % 16)]

/-- `0x` and k hexadecimal digits. -/
def hexText (k n : Nat) : List Char := '0' :: 'x' :: hexDigits k n

/-- A number below 1000 in decimal, without leading zeros. -/
def decimalText (n : Nat) : List Char :=
  if n < 10 then [hexDigit n]
  else if n < 100 then [hexDigit (n / 10), hexDigit (n % 10)]
  else [hexDigit (n / 100), hexDigit (n / 10 % 10), hexDigit (n % 10)]

/-- The mnemonic of an OP value. -/
def nameOfOp (op : Byte) : List Char :=
  match mnemonics.find? (fun row => row.2 == op) with
  | some row => row.1.toList
  | none => []

/-- The operand of a legal request word, in the forms of 30_encoding.md R95. A bit prints as 0 or 1
and a level by its name, as R95 says; it does not say in which base a number is printed. DESIGN CHOICE (log
entry 16): a byte as two and a nibble as one hexadecimal digit after 0x, a BLOCK length in decimal. -/
def operandText (form : OperandForm) (arg : Byte) (len : BitVec 9) : List Char :=
  match form with
  | .none _ => []
  | .bit _ => ' ' :: decimalText arg.toNat
  | .byte _ => ' ' :: hexText 2 arg.toNat
  | .nibble _ => ' ' :: hexText 1 arg.toNat
  | .level _ => ' ' :: (if arg = 0 then "STANDARD".toList else "STRONG".toList)
  | .length _ => ' ' :: decimalText len.toNat

/-- `.illegal 0xXXXXXXXX` (30_encoding.md R99). -/
def illegalText (req : Word) : List Char := ".illegal ".toList ++ hexText 8 req.toNat

/-- A request word as text: its mnemonic and operand, or `.illegal` (30_encoding.md R99). -/
def disassemble (P : Params) (req : Word) : List Char :=
  match decodeRequest P req, operationMap.lookup (opField req) with
  | .ok _, some form => nameOfOp (opField req) ++ operandText form (argField req) (lenField req)
  | _, _ => illegalText req

/-! ### Host lines -/

/-- What one line of a host program does (30_encoding.md R98): host actions, a branch on RESULT, the end
of the program, or nothing (a line with only a label or a comment). -/
inductive HostLine where
  | act (events : List PortEvent)
  | beq (v : Byte) (label : List Char)
  | bne (v : Byte) (label : List Char)
  | halt
  | blank
deriving DecidableEq, Repr

/-- `WR 0x0100+i+j, vj` for each byte. -/
def loadBuf (i : Nat) : List Byte → List PortEvent
  | [] => []
  | v :: vs => .memWrite (BitVec.ofNat 16 (0x0100 + i)) 1 v :: loadBuf (i + 1) vs

/-- All the operands as bytes. -/
def readBytes : List (List Char) → Option (List Byte)
  | [] => some []
  | a :: as =>
    match readBelow 256 a, readBytes as with
    | some n, some vs => some (BitVec.ofNat 8 n :: vs)
    | _, _ => none

/-- `XFER v0, ..., vk-1`: LOADBUF 0 of the bytes, then BLOCK k (30_encoding.md R98). -/
def transfer (P : Params) (vs : List Byte) : Option (List PortEvent) :=
  if vs.length ≤ P.bufSize ∧ vs.length < 512 then
    (requestOf P (.block (BitVec.ofNat 9 vs.length))).map fun req => loadBuf 0 vs ++ [.issue req]
  else none

/-- The pseudo-instructions and control lines of 30_encoding.md R98. R98 writes the data bytes as
`v0, ..., vk-1` and does not say whether there may be none, nor in which letter case the names stand. DESIGN
CHOICE (log entry 16): LOADBUF with an index alone is no action, XFER alone is BLOCK 0, and the names are read
in any letter case. -/
def pseudoLine (P : Params) (name : String) (args : List (List Char)) : Option HostLine :=
  match name, args with
  | "WR", [a, v] =>
    match readBelow 65536 a, readBelow 256 v with
    | some a, some v => some (.act [.memWrite (BitVec.ofNat 16 a) 1 (BitVec.ofNat 8 v)])
    | _, _ => none
  | "RD", [a] => (readBelow 65536 a).map fun a => .act [.memRead (BitVec.ofNat 16 a) 1]
  | "LOADBUF", i :: vs =>
    match readBelow 65536 i, readBytes vs with
    | some i, some vs => some (.act (loadBuf i vs))
    | _, _ => none
  | "XFER", vs => (readBytes vs).bind fun vs => (transfer P vs).map .act
  | "ISSUE", [w] => (readBelow 4294967296 w).map fun w => .act [.issue (BitVec.ofNat 32 w)]
  | "BEQ", [v, l] => (readBelow 256 v).map fun v => .beq (BitVec.ofNat 8 v) l
  | "BNE", [v, l] => (readBelow 256 v).map fun v => .bne (BitVec.ofNat 8 v) l
  | "HALT", [] => some .halt
  | _, _ => none

/-- The meaning of a source line: an operation, or a pseudo-instruction or control line. -/
def hostLine (P : Params) (line : SourceLine) : Option HostLine :=
  if line.head.isEmpty then some .blank
  else
    match assemble P line with
    | some req => some (.act [.issue req])
    | none => pseudoLine P (String.ofList (line.head.map Char.toUpper)) line.args

end Sys2Proof.Machine
end

