-- ==== Sys2Proof/Safety.lean ====
section
/-! DEFINITION. The terms claims about the block are stated in: what COMMAND_WAIT does, as a relation on
the bridge's answers; which frames the block may send; how many; the invariant of 10_state.md section 4;
and the bus a search enumerates. -/

namespace Sys2Proof

open Sys2Proof.Machine

/-- The state in which an operation that began in s completes when it issued the frames `fs`, returned
`v` and wrote no register but RESULT and HSR (41_bridge.md R101). -/
def completed (s : State) (fs : List Frame) (v : Byte) : State :=
  { s.answered fs with result := v, hsr := 0x00 }

/-! ### COMMAND_WAIT on the bridge's answers -/

/-- A command frame and k re-reads, answered by the next k + 1 answers of the bridge. -/
def pollFrames (s : State) (cmd : Byte) (arg : Option Byte) (k : Nat) : List Frame :=
  .txn cmd arg (s.answer 0) :: (List.range k).map fun j => .read (s.answer (j + 1))

/-- The device-reset frame that would be the k-th frame from now on. -/
def resetFrame (s : State) (k : Nat) : Frame := .txn s.params.cmdDrst none (s.answer k)

/-- COMMAND_WAIT of `cmd` and `arg` issues the frames `fs` and returns `S` (41_bridge.md R107). Either the
k-th answer is the first one with 1WB = 0, for some k ≤ P_POLL_LIMIT, and k re-reads were made; or the
first P_POLL_LIMIT + 1 answers have 1WB = 1, and P_POLL_LIMIT re-reads, one device reset and the sentinel
0x00 follow. -/
def Waited (s : State) (cmd : Byte) (arg : Option Byte) (S : Byte) (fs : List Frame) : Prop :=
  (∃ k ≤ s.params.pollLimit, (∀ j < k, stBusy (s.answer j) = true) ∧ stBusy (s.answer k) = false ∧
    S = s.answer k ∧ fs = pollFrames s cmd arg k) ∨
  ((∀ j ≤ s.params.pollLimit, stBusy (s.answer j) = true) ∧ S = 0x00 ∧
    fs = pollFrames s cmd arg s.params.pollLimit ++ [resetFrame s (s.params.pollLimit + 1)])

/-- READ_BYTE_SEQ issues the frames `fs` and returns `d` (42_bus.md R127): the byte-read command, waited
for; then the pointer switch, whose reply is the data register, whatever the wait gave. -/
def ReadByteDone (s : State) (d : Byte) (fs : List Frame) : Prop :=
  ∃ S ws, Waited s s.params.cmd1wrb none S ws ∧ d = s.answer ws.length ∧
    fs = ws ++ [.txn s.params.cmdSrp (some s.params.ptrData) (s.answer ws.length)]

/-- TOUCH_BYTE_SEQ(v) issues the frames `fs` and returns `b` (42_bus.md R129). -/
def TouchByteDone (s : State) (v b : Byte) (fs : List Frame) : Prop :=
  (v = 0xFF ∧ ReadByteDone s b fs) ∨
  (v ≠ 0xFF ∧ b = v ∧ ∃ S, Waited s s.params.cmd1wwb (some v) S fs)

/-- WRITE_CONFIG_SEQ(c) issues the frames `fs` and succeeds or not (41_bridge.md R110). -/
def ConfigWritten (s : State) (c : BitVec 4) (ok : Bool) (fs : List Frame) : Prop :=
  ((s.answer 0).extractLsb' 0 4 = c ∧ ok = true ∧
    fs = [.txn s.params.cmdWcfg (some (~~~c ++ c)) (s.answer 0)]) ∨
  ((s.answer 0).extractLsb' 0 4 ≠ c ∧ ok = false ∧
    fs = [.txn s.params.cmdWcfg (some (~~~c ++ c)) (s.answer 0), resetFrame s 1])

/-! ### Frames -/

/-- A frame the block may send (30_encoding.md R86 to R90, R93): a poll re-read, or one of the eight
commands that have a value, with an argument byte of its form. -/
def LegalFrame (P : Params) : Frame → Prop
  | .read _ => True
  | .txn cmd none _ => cmd = P.cmdDrst ∨ cmd = P.cmd1wrs ∨ cmd = P.cmd1wrb
  | .txn cmd (some arg) _ =>
    (cmd = P.cmdWcfg ∧ ∃ c : BitVec 4, arg = ~~~c ++ c) ∨
    (cmd = P.cmd1wsb ∧ (arg = 0x80 ∨ arg = 0x00)) ∨
    cmd = P.cmd1wwb ∨
    (cmd = P.cmdSrp ∧ arg = P.ptrData) ∨
    (cmd = P.cmd1wt ∧ (arg = 0x80 ∨ arg = 0x00))

/-- How many of BUF[0..n-1] hold 0xFF. -/
def allOnesBytes (s : State) (n : Nat) : Nat :=
  ((List.range n).filter fun i => s.bufByte i == some 0xFF).length

/-- The most frames an operation issues (70_reset_and_hazards.md R202), with P = P_POLL_LIMIT; for the
power operations the longer of its two entries. A bridge row is one frame. -/
def worstFrames (s : State) : Instr → Nat
  | .bridgeReset => 1
  | .detect => 3
  | .writeConfig _ => 2
  | .busReset | .touchBit _ | .writeBit _ | .readBit | .writeByte _ | .triplet _ =>
    s.params.pollLimit + 2
  | .readByte => s.params.pollLimit + 3
  | .touchByte v => if v = 0xFF then s.params.pollLimit + 3 else s.params.pollLimit + 2
  | .block n => n.toNat * (s.params.pollLimit + 2) + allOnesBytes s n.toNat
  | .setLevel .standard => 2
  | .setLevel .strong => 0
  | .writeBitPower _ => 1 + (s.params.pollLimit + 2) + 2
  | .writeBytePower _ => 1 + (s.params.pollLimit + 2)
  | .crcClear | .crcUpdate _ => 0
  | .searchFirst | .searchNext | .alarmFirst | .alarmNext => 66 * (s.params.pollLimit + 2)
  | .bridgeDeviceReset | .bridgeWriteConfig _ | .bridgeBusReset | .bridgeSingleBit _
  | .bridgeWriteByte _ | .bridgeReadByte | .bridgeSetReadPointer | .bridgeTriplet _ => 1
  | .bridgeWriteByteWithPower => 0

/-! ### The invariant -/

/-- Every BUF byte listed is one of BUF[0..P_BUF_SIZE-1]. -/
def bufInRange (P : Params) (m : Memory) : Bool := m.all fun cell => inBuf P cell.1

/-- ROM holds an identifier a pass accepted: every bit written, the CRC of the eight bytes zero, the
family code not 0x00 (10_state.md R47, R50). -/
def RomAccepted (s : State) : Prop :=
  (∀ i < 8, s.romSetByte i = 0xFF) ∧ crcFold 0x00 s.rom.toList = 0x00 ∧ s.romByte 0 ≠ 0x00

/-- The invariant between operations: HSR is 0x00 or 0x02 (10_state.md R23, R25), `LD ≤ 64`, `LFD ≤ 8`,
`LD > 0` implies `LDF = 0` (R46), LD > 0 or LDF = 1 only with an accepted identifier in ROM (R31, R47,
R50), and BUF in its canonical form within P_BUF_SIZE bytes (R37). -/
structure Inv (s : State) : Prop where
  hsr : s.hsr = 0x00 ∨ s.hsr = 0x02
  ld : s.ld.toNat ≤ 64
  lfd : s.lfd.toNat ≤ 8
  flag : 0 < s.ld.toNat → s.ldf = false
  rom : 0 < s.ld.toNat ∨ s.ldf = true → RomAccepted s
  buf : s.buf.wf = true
  range : bufInRange s.params s.buf = true

/-! ### A pass on a bridge that is never busy -/

/-- The next n answers of the bridge have 1WB = 0. -/
def Idle (s : State) (n : Nat) : Prop := ∀ k < n, stBusy (s.answer k) = false

/-- The answer to the triplet at bit position p of a pass on a bridge that is never busy: the third of
the pass's answers is that of position 1. -/
def tripletAnswer (s : State) (p : Nat) : Byte := s.answer (p + 1)

/-- The steering direction at position p of a pass that starts in s (44_search.md R153). -/
def steering (s : State) (p : Nat) : Bool :=
  if p < s.ld.toNat then s.romBit p else decide (p = s.ld.toNat)

/-- Both probe bits of the answer are 1: nothing responded (44_search.md R155). -/
def noneResponded (S : Byte) : Bool := stSingleBit S && stTripletSecond S

/-- Neither probe bit is 1 and the direction taken is 0 (44_search.md R154). -/
def tookZeroBranch (S : Byte) : Bool := !stSingleBit S && !stTripletSecond S && !stDirection S

/-- z is the last position of 1..n with a discrepancy taken toward 0, or 0 where there is none. -/
def LastZeroBranch (s : State) (n z : Nat) : Prop :=
  z ≤ n ∧ (0 < z → tookZeroBranch (tripletAnswer s z) = true) ∧
    ∀ p, z < p → p ≤ n → tookZeroBranch (tripletAnswer s p) = false

/-- The frames of a pass with ROM command rc that runs n triplets on a bridge that is never busy
(44_search.md R150). -/
def passFrames (s : State) (rc : Byte) (n : Nat) : List Frame :=
  [.txn s.params.cmd1wrs none (s.answer 0), .txn s.params.cmd1wwb (some rc) (s.answer 1)] ++
    (List.range n).map fun k =>
      .txn s.params.cmd1wt (some (if steering s (k + 1) then 0x80 else 0x00)) (tripletAnswer s (k + 1))

/-- The operations that continue an enumeration, with their ROM commands (44_search.md R161, R163). -/
def PassOperation (i : Instr) (rc : Byte) : Prop :=
  (i = .searchNext ∧ rc = 0xF0) ∨ (i = .alarmNext ∧ rc = 0xEC)

/-! ### A faithful bridge over a set of devices (44_search.md R165) -/

/-- A device's identifier; bit p - 1 is the bit at search position p (20_memory.md R62). -/
abbrev Identifier := BitVec 64

/-- The identifier's bit at search position p. -/
def idBit (d : Identifier) (p : Nat) : Bool := d.getLsbD (p - 1)

/-- The eight bytes of an identifier, ROM[0] first (20_memory.md R61). -/
def idBytes (d : Identifier) : List Byte := (List.range 8).map fun i => d.extractLsb' (8 * i) 8

/-- Well-formed: the CRC of the eight bytes is zero, and the family code is not 0x00 (44_search.md R166). -/
def IdentifierOk (d : Identifier) : Prop :=
  crcFold 0x00 (idBytes d) = 0x00 ∧ (idBytes d).head? ≠ some 0x00

/-- ROM holds the identifier. -/
def RomHolds (s : State) (d : Identifier) : Prop := ∀ p, 1 ≤ p → p ≤ 64 → s.romBit p = idBit d p

/-- The order of discovery (44_search.md R165): at the first position where two identifiers differ, d has
the bit 0 and e the bit 1. It is the order of the key K. -/
def Before (d e : Identifier) : Prop :=
  ∃ p, 1 ≤ p ∧ p ≤ 64 ∧ (∀ q, 1 ≤ q → q < p → idBit d q = idBit e q) ∧
    idBit d p = false ∧ idBit e p = true

/-- The devices still active at position p of a pass that starts in s: those whose bits agree with every
direction taken so far. -/
def Active (s : State) (devices : List Identifier) (p : Nat) (d : Identifier) : Prop :=
  d ∈ devices ∧ ∀ q, 1 ≤ q → q < p → idBit d q = stDirection (tripletAnswer s q)

/-- The bridge's answers in a pass that starts in s are those of a faithful bridge over the devices
(44_search.md R165): presence on the bus reset; at each position the probe bits tell whether every active
device has the bit 1, and whether every one has the bit 0; the direction taken is the one requested at a
discrepancy, and the only bit present elsewhere. -/
structure Faithful (s : State) (devices : List Identifier) : Prop where
  idle : Idle s 66
  presence : stPresence (s.answer 0) = true
  first : ∀ p, 1 ≤ p → p ≤ 64 →
    (stSingleBit (tripletAnswer s p) = true ↔ ∀ d, Active s devices p d → idBit d p = true)
  second : ∀ p, 1 ≤ p → p ≤ 64 →
    (stTripletSecond (tripletAnswer s p) = true ↔ ∀ d, Active s devices p d → idBit d p = false)
  direction : ∀ p, 1 ≤ p → p ≤ 64 →
    stDirection (tripletAnswer s p) =
      if stSingleBit (tripletAnswer s p) then true
      else if stTripletSecond (tripletAnswer s p) then false else steering s p

/-- The Search State that follows finding d among the devices: ROM holds d; LD is the last position where
d has the bit 0 and another device agrees with d before it and has the bit 1, or 0 where there is none;
LDF is set exactly in the latter case (10_state.md R31, 44_search.md R157). -/
structure Found (s : State) (devices : List Identifier) (d : Identifier) : Prop where
  device : d ∈ devices
  rom : RomHolds s d
  ld : s.ld.toNat ≤ 64
  branch : 0 < s.ld.toNat → idBit d s.ld.toNat = false ∧
    ∃ e ∈ devices, (∀ q, 1 ≤ q → q < s.ld.toNat → idBit d q = idBit e q) ∧ idBit e s.ld.toNat = true
  last : ∀ p, s.ld.toNat < p → p ≤ 64 → idBit d p = false →
    ∀ e ∈ devices, (∀ q, 1 ≤ q → q < p → idBit d q = idBit e q) → idBit e p = false
  flag : s.ldf = decide (s.ld.toNat = 0)

end Sys2Proof
end

