-- ==== Sys2Proof/Certificates/Slice0/Obligations.lean ====
section
/-! DEFINITION. The statements for the provers. `completed s fs v` is the state in which an operation that
began in s ends when it issued exactly the frames `fs`, returned v, and wrote nothing but RESULT and HSR;
so an equation `exec i s = .next { completed s fs v with r := x }` states the result, completion and the
whole frame of the instruction, memory included. `s.answer k` is the byte the bridge returns for the k-th
frame from s on; every statement holds for every sequence of answers. -/

open Sys2Proof Sys2Proof.Machine

/-! ### Reset and the host register space -/

/-- 10_state.md R49: the state after block reset. No bit of ROM and no byte of BUF has a value. The
model's own fields are not the rule's and are left out. -/
def Obligations.ResetHoldsSpecValues : Prop :=
  State.reset.result = 0x00 ∧ State.reset.hsr = 0x00 ∧ State.reset.cfg = 0x0 ∧
  State.reset.short = false ∧ State.reset.ld = 0 ∧ State.reset.lfd = 0 ∧ State.reset.ldf = false ∧
  State.reset.crc8 = 0x00 ∧ (∀ i < 8, State.reset.romSetByte i = 0x00) ∧
  (∀ i, State.reset.bufByte i = none) ∧ State.reset.hist = []

/-- 20_memory.md R55, R57: `MemRead(addr, 1)` returns the byte of the map at every address of the space,
narrow registers zero-extended, and changes nothing but the count of draws. Where ROM bits have not been
written, the written ones are returned as they are; the rest, and an unset BUF byte, are any value
(10_state.md R49). -/
def Obligations.HostReadReturnsMap : Prop :=
  ∀ (s : State) (rest : List PortEvent) (a : Addr), hsrBusy s.hsr = false →
    s.port = .memRead a 1 :: rest →
    ∃ (v : Byte) (d : Nat),
      step s = .next { s with port := rest, readData := some v, draws := d } ∧
      (a.toNat = 0x0000 → v = s.result) ∧
      (a.toNat = 0x0001 → v = (s.hsr &&& 0x03)) ∧
      (a.toNat = 0x0002 → v.toNat = s.cfg.toNat) ∧
      (a.toNat = 0x0003 → v = if s.short then 0x01 else 0x00) ∧
      (a.toNat = 0x0004 → v.toNat = s.ld.toNat) ∧
      (a.toNat = 0x0005 → v.toNat = s.lfd.toNat) ∧
      (a.toNat = 0x0006 → v = if s.ldf then 0x01 else 0x00) ∧
      (a.toNat = 0x0007 → v = s.crc8) ∧
      (∀ i < 8, a.toNat = 0x0008 + i →
        v &&& s.romSetByte i = s.romByte i &&& s.romSetByte i) ∧
      (∀ i < s.params.bufSize, a.toNat = 0x0100 + i →
        ∀ b, s.bufByte i = some b → v = b)

/-- 20_memory.md R57: `MemWrite(addr, 1, v)` to BUF[i] stores the byte there. Every other host address
reads as before, and no other state changes. -/
def Obligations.HostWriteStoresBufByte : Prop :=
  ∀ (s : State) (rest : List PortEvent) (a : Addr) (v : Byte) (i : Nat), hsrBusy s.hsr = false →
    s.port = .memWrite a 1 v :: rest → i < s.params.bufSize → a.toNat = 0x0100 + i →
    ∃ t, step s = .next t ∧ t = { s with port := rest, buf := t.buf } ∧ t.bufByte i = some v ∧
      ∀ b, b ≠ a.toNat → t.hostByte b = s.hostByte b

/-- 20_memory.md R56: a MemRead of a reserved address returns 0x00; a MemWrite to a reserved address or to
a read-only register has no effect. -/
def Obligations.ReservedAndReadOnlyAreInert : Prop :=
  ∀ (s : State) (rest : List PortEvent) (a : Addr), hsrBusy s.hsr = false →
    ((0x0010 ≤ a.toNat ∧ a.toNat ≤ 0x00FF) ∨ 0x0100 + s.params.bufSize ≤ a.toNat →
      s.port = .memRead a 1 :: rest →
      step s = .next { s with port := rest, readData := some 0x00 }) ∧
    (∀ v, a.toNat ≤ 0x00FF ∨ 0x0100 + s.params.bufSize ≤ a.toNat →
      s.port = .memWrite a 1 v :: rest → step s = .next { s with port := rest })

/-- 00_scope.md R15: every host access is one byte wide; any other width is refused. -/
def Obligations.OtherAccessWidthsRefused : Prop :=
  ∀ (s : State) (rest : List PortEvent) (a : Addr) (n : Nat), hsrBusy s.hsr = false → n ≠ 1 →
    (s.port = .memRead a n :: rest → step s = .refused .accessWidth) ∧
    (∀ v, s.port = .memWrite a n v :: rest → step s = .refused .accessWidth)

/-- 70_reset_and_hazards.md R194: while HSR.BUSY = 1 the model refuses Issue, MemRead and MemWrite. It
refuses a frame handed to the bridge port too; that action, and so its refusal, is the model's own choice
(log entry 10). -/
def Obligations.HostActionRefusedWhileBusy : Prop :=
  ∀ (s : State) (e : PortEvent) (rest : List PortEvent), s.hsr.getLsbD 0 = true →
    s.port = e :: rest → step s = .refused .hostAccessWhileBusy

/-! ### Requests and their encoding -/

/-- 20_memory.md R54, 41_bridge.md R100, for a request word: the next action at the port, once its code
decodes to an instruction, is that instruction's meaning on the state with the action taken from the port;
the step adds nothing else around it. That a frame at the port runs a bridge row in the same way is the
model's own choice (log entry 10). -/
def Obligations.StepRunsDecodedInstruction : Prop :=
  ∀ (s : State) (c : Code) (i : Instr) (rest : List PortEvent), hsrBusy s.hsr = false →
    s.port = eventOfCode c :: rest → decode s.params c = .ok i →
    step s = exec i { s with port := rest }

/-- Words written out from 30_encoding.md R75, R79 and R86 (OP in bits 7:0, ARG in 15:8, LEN in 24:16)
decode to what they stand for, one or two for each family. -/
def Obligations.SampleWordsDecode : Prop :=
  decodeTableWord 32 0x00000002 = some .detect ∧
  decodeTableWord 32 0x00000503 = some (.writeConfig 0x5) ∧
  decodeTableWord 32 0x00000111 = some (.touchBit true) ∧
  decodeTableWord 32 0x0000CC14 = some (.writeByte 0xCC) ∧
  decodeTableWord 32 0x00090017 = some (.block 9) ∧
  decodeTableWord 32 0x00000218 = some (.setLevel .strong) ∧
  decodeTableWord 32 0x00000221 = some (.crcUpdate 0x02) ∧
  decodeTableWord 32 0x00000031 = some .searchNext ∧
  decodeTableWord 32 0x00000134 = some (.triplet true) ∧
  decodeTableWord 8 0xF0 = some .bridgeDeviceReset ∧
  decodeTableWord 16 0xD2A5 = some (.bridgeWriteConfig 0x5) ∧
  decodeTableWord 16 0x7880 = some (.bridgeTriplet true)

/-- Decode and encode agree on the 21 operations, for every parameter value and every operand the encoding
admits. -/
def Obligations.OperationDecodesFromItsEncoding : Prop :=
  ∀ (P : Params) (i : Instr), i.isOperation = true → WellFormed P i → decode P (encode P i) = .ok i

/-- Each legal request word has one meaning: a word that decodes is the encoding of what it decodes to,
which is a well-formed operation. -/
def Obligations.LegalRequestIsTheEncoding : Prop :=
  ∀ (P : Params) (req : Word) (i : Instr), decode P (.request req) = .ok i →
    i.isOperation = true ∧ WellFormed P i ∧ encode P i = .request req

/-- Decode and encode agree on the bridge rows, both ways, when the opcode parameters can be told apart.
Three points of it are the model's, not a rule's: the premise, since the opcode values are parameters
(92_eei_decisions.md D9); that bytes outside the forms of 30_encoding.md R87 to R90, 0xD2 0x00 among them, do
not decode, which is what the second clause rests on (log entry 15); and that write-byte-with-power, where its
opcode has a value, is a frame of that one byte (log entry 3). -/
def Obligations.BridgeFramesDecodeAndEncodeAgree : Prop :=
  ∀ (P : Params) (i : Instr), P.opcodesDistinct = true → i.isOperation = false →
    (WellFormed P i → decode P (encode P i) = .ok i) ∧
    (∀ bytes, decode P (.frame bytes) = .ok i → WellFormed P i ∧ encode P i = .frame bytes)

/-- 30_encoding.md R82: the OP values that are illegal, and the words that break R76, R77 or R78, are all
rejected; 0x00000000 among them. -/
def Obligations.IllegalWordsRejected : Prop :=
  ∀ (P : Params) (req : Word),
    let op := (req.extractLsb' 0 8).toNat
    let arg := (req.extractLsb' 8 8).toNat
    let len := (req.extractLsb' 16 9).toNat
    let rsv := (req.extractLsb' 25 7).toNat
    (rsv ≠ 0 ∨
      op = 0x00 ∨ (0x04 ≤ op ∧ op ≤ 0x0F) ∨ (0x1B ≤ op ∧ op ≤ 0x1F) ∨ (0x22 ≤ op ∧ op ≤ 0x2F) ∨
      (0x35 ≤ op ∧ op ≤ 0xFF) ∨
      (arg ≠ 0 ∧ op ∈ [0x01, 0x02, 0x10, 0x13, 0x15, 0x17, 0x20, 0x30, 0x31, 0x32, 0x33]) ∨
      (1 < arg ∧ op ∈ [0x11, 0x12, 0x19, 0x34]) ∨
      (15 < arg ∧ op = 0x03) ∨
      (arg ≠ 0 ∧ arg ≠ 2 ∧ op = 0x18) ∨
      (op = 0x17 ∧ P.bufSize < len) ∨
      (op ≠ 0x17 ∧ len ≠ 0)) →
    ∃ e, decode P (.request req) = .error e

/-- 60_exceptions.md R170: a word that decoding rejects sets HSR to 0x02 and changes nothing else; no
frame is issued. The next legal request clears ILLEGAL. -/
def Obligations.IllegalRequestSetsOnlyHsr : Prop :=
  (∀ (s : State) (req : Word) (rest : List PortEvent) (e : DecodeError), hsrBusy s.hsr = false →
    s.port = .issue req :: rest → decode s.params (.request req) = .error e →
    step s = .next { s with port := rest, hsr := 0x02 }) ∧
  (∀ (s : State) (i : Instr) (t : State), i.isOperation = true → exec i s = .next t → t.hsr = 0x00)

/-! ### Transport and lifecycle -/

/-- 30_encoding.md R84: the status snapshot's layout. -/
def Obligations.StatusSnapshotLayout : Prop :=
  ∀ S : Byte, S = (if stBusy S then 0x01 else 0) ||| (if stPresence S then 0x02 else 0) |||
    (if stShort S then 0x04 else 0) ||| (if stLogicLevel S then 0x08 else 0) |||
    (if stDeviceReset S then 0x10 else 0) ||| (if stSingleBit S then 0x20 else 0) |||
    (if stTripletSecond S then 0x40 else 0) ||| (if stDirection S then 0x80 else 0)

/-- 41_bridge.md R113: a bridge that never clears the busy bit sees exactly P_POLL_LIMIT re-reads and
exactly one device reset in a COMMAND_WAIT, which returns the zero sentinel and changes nothing but the
history. -/
def Obligations.StuckBusyGivesSentinelAndOneReset : Prop :=
  ∀ (s : State) (cmd : Byte) (arg : Option Byte),
    (∀ j ≤ s.params.pollLimit, (s.answer j).getLsbD 0 = true) →
    ∃ fs, commandWait cmd arg s = (0x00, s.answered fs) ∧
      fs = .txn cmd arg (s.answer 0) ::
        (List.range s.params.pollLimit).map (fun j => .read (s.answer (j + 1))) ++
        [.txn s.params.cmdDrst none (s.answer (s.params.pollLimit + 1))]

/-- 41_bridge.md R107, its success path: when the k-th answer is the first with 1WB = 0 and
k ≤ P_POLL_LIMIT, k re-reads are made and that snapshot is returned; the last permitted re-read counts. -/
def Obligations.PollEndsAtFirstIdleSnapshot : Prop :=
  ∀ (s : State) (cmd : Byte) (arg : Option Byte) (k : Nat), k ≤ s.params.pollLimit →
    (∀ j < k, (s.answer j).getLsbD 0 = true) → (s.answer k).getLsbD 0 = false →
    commandWait cmd arg s = (s.answer k, s.answered
      (.txn cmd arg (s.answer 0) :: (List.range k).map fun j => .read (s.answer (j + 1))))

/-- 41_bridge.md R108 and R109: one device-reset frame; RESULT is 1 exactly when the masked reply equals
the acknowledgement pattern. -/
def Obligations.BridgeResetOutcome : Prop :=
  ∀ s : State, exec .bridgeReset s =
    .next (completed s [.txn s.params.cmdDrst none (s.answer 0)]
      (if (s.answer 0 &&& s.params.resetAckMask) = s.params.resetAck then 0x01 else 0x00))

/-- 41_bridge.md R110: one write-configuration frame of c and its complement. If the low nibble of the
reply is c, CFG takes c and RESULT is 1; otherwise the bridge is reset, CFG is kept and RESULT is 0. -/
def Obligations.WriteConfigOutcome : Prop :=
  ∀ (s : State) (c : BitVec 4),
    ((s.answer 0).extractLsb' 0 4 = c → exec (.writeConfig c) s =
      .next { completed s [.txn s.params.cmdWcfg (some (~~~c ++ c)) (s.answer 0)] 0x01 with cfg := c }) ∧
    ((s.answer 0).extractLsb' 0 4 ≠ c → exec (.writeConfig c) s =
      .next (completed s [.txn s.params.cmdWcfg (some (~~~c ++ c)) (s.answer 0),
        .txn s.params.cmdDrst none (s.answer 1)] 0x00))

/-- 30_encoding.md R90: the configuration byte on the wire, for every configuration. -/
def Obligations.ConfigurationByteOnTheWire : Prop :=
  ∀ c : BitVec 4, wcfg c = (c.zeroExtend 8 ||| (~~~(c.zeroExtend 8) <<< 4)) ∧
    (wcfg c).extractLsb' 4 4 = ~~~c ∧ (wcfg c).extractLsb' 0 4 = c

/-- 41_bridge.md R112: DETECT resets the bridge and writes configuration 0x1; a failed reset issues no
write-configuration frame, and a failed configuration write issues a second device reset. -/
def Obligations.DetectOutcome : Prop :=
  ∀ s : State,
    ((s.answer 0 &&& s.params.resetAckMask) ≠ s.params.resetAck → exec .detect s =
      .next (completed s [.txn s.params.cmdDrst none (s.answer 0)] 0x00)) ∧
    ((s.answer 0 &&& s.params.resetAckMask) = s.params.resetAck →
      ((s.answer 1).extractLsb' 0 4 = 0x1#4 → exec .detect s =
        .next { completed s [.txn s.params.cmdDrst none (s.answer 0),
          .txn s.params.cmdWcfg (some 0xE1) (s.answer 1)] 0x01 with cfg := 0x1 }) ∧
      ((s.answer 1).extractLsb' 0 4 ≠ 0x1#4 → exec .detect s =
        .next (completed s [.txn s.params.cmdDrst none (s.answer 0),
          .txn s.params.cmdWcfg (some 0xE1) (s.answer 1),
          .txn s.params.cmdDrst none (s.answer 2)] 0x00)))

/-! ### Bus primitives -/

/-- 42_bus.md R119: the bus reset waits for the bridge; SHORT takes bit 2 of the snapshot and RESULT is
bit 1. -/
def Obligations.BusResetOutcome : Prop :=
  ∀ s : State, ∃ S fs, Waited s s.params.cmd1wrs none S fs ∧
    exec .busReset s =
      .next { completed s fs (if S.getLsbD 1 then 0x01 else 0x00) with short := S.getLsbD 2 }

/-- 42_bus.md R121: TOUCH_BIT sends 0x80 or 0x00 and returns bit 5 of the snapshot. -/
def Obligations.TouchBitOutcome : Prop :=
  ∀ (s : State) (b : Bool), ∃ S fs,
    Waited s s.params.cmd1wsb (some (if b then 0x80 else 0x00)) S fs ∧
    exec (.touchBit b) s = .next (completed s fs (if S.getLsbD 5 then 0x01 else 0x00))

/-- 42_bus.md R123, R124: READ_BIT is TOUCH_BIT 1; WRITE_BIT issues the frames of TOUCH_BIT and returns
0x00. -/
def Obligations.ReadBitAndWriteBitOutcome : Prop :=
  ∀ s : State,
    (∃ S fs, Waited s s.params.cmd1wsb (some 0x80) S fs ∧
      exec .readBit s = .next (completed s fs (if S.getLsbD 5 then 0x01 else 0x00))) ∧
    ∀ b : Bool, ∃ S fs, Waited s s.params.cmd1wsb (some (if b then 0x80 else 0x00)) S fs ∧
      exec (.writeBit b) s = .next (completed s fs 0x00)

/-- 42_bus.md R125, R126: WRITE_BYTE sends the byte with the write-byte command, whatever it is, and
returns 0x00. -/
def Obligations.WriteByteOutcome : Prop :=
  ∀ (s : State) (v : Byte), ∃ S fs, Waited s s.params.cmd1wwb (some v) S fs ∧
    exec (.writeByte v) s = .next (completed s fs 0x00)

/-- 42_bus.md R127: READ_BYTE issues the byte-read command and then the pointer switch, even after a
timeout, and returns the reply to the switch. -/
def Obligations.ReadByteOutcome : Prop :=
  ∀ s : State, ∃ S ws, Waited s s.params.cmd1wrb none S ws ∧
    exec .readByte s = .next (completed s
      (ws ++ [.txn s.params.cmdSrp (some s.params.ptrData) (s.answer ws.length)]) (s.answer ws.length))

/-- 42_bus.md R129: TOUCH_BYTE 0xFF is a read; any other byte is written and echoed. -/
def Obligations.TouchByteOutcome : Prop :=
  ∀ s : State,
    (∃ S ws, Waited s s.params.cmd1wrb none S ws ∧
      exec (.touchByte 0xFF) s = .next (completed s
        (ws ++ [.txn s.params.cmdSrp (some s.params.ptrData) (s.answer ws.length)])
        (s.answer ws.length))) ∧
    ∀ v : Byte, v ≠ 0xFF → ∃ S fs, Waited s s.params.cmd1wwb (some v) S fs ∧
      exec (.touchByte v) s = .next (completed s fs v)

/-- 42_bus.md R130: when BUF[0..n-1] has been set, BLOCK n completes: byte after byte it does what
TOUCH_BYTE of that byte does, and stores the byte that gives back. RESULT is 0x00, every address outside
BUF[0..n-1] reads as before, and nothing else changes. -/
def Obligations.BlockOutcome : Prop :=
  ∀ (s : State) (n : BitVec 9), (∀ j < n.toNat, (s.bufByte j).isSome = true) →
    ∃ (bs : List Byte) (fss : List (List Frame)) (t : State),
      bs.length = n.toNat ∧ fss.length = n.toNat ∧ exec (.block n) s = .next t ∧
      t = { completed s fss.flatten 0x00 with buf := t.buf } ∧
      (∀ j b fs, bs[j]? = some b → fss[j]? = some fs → t.bufByte j = some b ∧
        ∃ v, s.bufByte j = some v ∧ TouchByteDone (s.answered (fss.take j).flatten) v b fs) ∧
      ∀ a, a < 0x0100 ∨ 0x0100 + n.toNat ≤ a → t.buf.read a = s.buf.read a

/-- 10_state.md R49, 60_exceptions.md R189: a BLOCK that would send a BUF byte no host write has set is a
fault, at the first such byte. -/
def Obligations.BlockFaultsOnUnsetByte : Prop :=
  ∀ (s : State) (n : BitVec 9), (∃ j < n.toNat, s.bufByte j = none) →
    ∃ k < n.toNat, exec (.block n) s = .fault (.bufByteUnset k) ∧ s.bufByte k = none ∧
      ∀ j < k, (s.bufByte j).isSome = true

/-- 42_bus.md R131: SET_LEVEL STRONG is rejected with 0x02 and no frame. SET_LEVEL STANDARD writes the
configuration with SPU clear and returns 0x00; a failed write returns 0x02 and keeps CFG. -/
def Obligations.SetLevelOutcome : Prop :=
  ∀ s : State,
    exec (.setLevel .strong) s = .next (completed s [] 0x02) ∧
    ∃ fs ok, ConfigWritten s (s.cfg &&& 0xB#4) ok fs ∧
      exec (.setLevel .standard) s =
        (if ok then .next { completed s fs 0x00 with cfg := s.cfg &&& 0xB#4 }
         else .next (completed s fs 0x02))

/-- 42_bus.md R132: WRITE_BIT_POWER writes the configuration with SPU set; if that fails it returns 0 with
no exchange. Otherwise it exchanges the bit P_WBP_SEND_BIT: if the bit received is the expected one, it
returns 1 with SPU left set; if not, it writes the configuration with SPU clear, keeps whatever CFG that
leaves, and returns 0. -/
def Obligations.WriteBitPowerOutcome : Prop :=
  ∀ (s : State) (b : Bool), ∃ ok fs, ConfigWritten s (s.cfg ||| 0x4#4) ok fs ∧
    (ok = false → exec (.writeBitPower b) s = .next (completed s fs 0x00)) ∧
    (ok = true → ∃ S ws,
      Waited (s.answered fs) s.params.cmd1wsb (some (if s.params.wbpSendBit then 0x80 else 0x00)) S ws ∧
      (S.getLsbD 5 = b → exec (.writeBitPower b) s =
        .next { completed s (fs ++ ws) 0x01 with cfg := s.cfg ||| 0x4#4 }) ∧
      (S.getLsbD 5 ≠ b → ∃ ok' gs,
        ConfigWritten (s.answered (fs ++ ws)) ((s.cfg ||| 0x4#4) &&& 0xB#4) ok' gs ∧
        exec (.writeBitPower b) s = .next { completed s (fs ++ ws ++ gs) 0x00 with
          cfg := if ok' then (s.cfg ||| 0x4#4) &&& 0xB#4 else s.cfg ||| 0x4#4 }))

/-- 42_bus.md R133: WRITE_BYTE_POWER writes the configuration with SPU set; if that fails it returns 0 and
sends no byte. Otherwise it writes the byte, leaves SPU set and returns 1. -/
def Obligations.WriteBytePowerOutcome : Prop :=
  ∀ (s : State) (v : Byte), ∃ ok fs, ConfigWritten s (s.cfg ||| 0x4#4) ok fs ∧
    (ok = false → exec (.writeBytePower v) s = .next (completed s fs 0x00)) ∧
    (ok = true → ∃ S ws, Waited (s.answered fs) s.params.cmd1wwb (some v) S ws ∧
      exec (.writeBytePower v) s =
        .next { completed s (fs ++ ws) 0x01 with cfg := s.cfg ||| 0x4#4 })

/-- 42_bus.md R134: strong pullup persists. Once CFG.SPU is set, no step clears it but SET_LEVEL STANDARD,
WRITE_CONFIG, DETECT and the mismatch path of WRITE_BIT_POWER. -/
def Obligations.StrongPullupPersists : Prop :=
  ∀ (s t : State) (i : Instr), s.cfg.getLsbD 2 = true → exec i s = .next t →
    t.cfg.getLsbD 2 = false →
    i = .setLevel .standard ∨ (∃ c, i = .writeConfig c) ∨ i = .detect ∨
      ∃ b, i = .writeBitPower b ∧ t.result = 0x00

/-- 42_bus.md R135: no operation reads SHORT. With another value of SHORT an operation issues the same
frames, returns the same value and leaves every other register the same. -/
def Obligations.ShortIsNeverRead : Prop :=
  ∀ (s t : State) (i : Instr) (b : Bool), exec i s = .next t →
    ∃ c : Bool, exec i { s with short := b } = .next { t with short := c }

/-! ### CRC-8 -/

/-- 43_crc.md R138, R140, R141: CRC_CLEAR zeroes CRC8 and returns 0x00; CRC_UPDATE v puts T[CRC8 ^ v] into
CRC8 and RESULT. No frame is issued and nothing else changes. -/
def Obligations.CrcOperationsOutcome : Prop :=
  ∀ (s : State) (v : Byte),
    exec .crcClear s = .next { completed s [] 0x00 with crc8 := 0x00 } ∧
    exec (.crcUpdate v) s =
      .next { completed s [] (crcEntry (s.crc8 ^^^ v)) with crc8 := crcEntry (s.crc8 ^^^ v) }

/-- 43_crc.md R142: the bitwise form and the table agree on all pairs (c, v). -/
def Obligations.CrcBitwiseAgreesWithTable : Prop :=
  ∀ c v : Byte, crcBitwise 8 c v = crcEntry (c ^^^ v)

/-- 43_crc.md R143: folding any bytes followed by their CRC from zero gives zero. -/
def Obligations.CrcOfBytesAndTheirCrcIsZero : Prop :=
  ∀ bs : List Byte, bs.length = 7 → crcFold 0x00 (bs ++ [crcFold 0x00 bs]) = 0x00

/-- 43_crc.md R144: flipping any single bit of a valid 8-byte identifier makes the fold nonzero; the
rule's example identifier is valid. -/
def Obligations.CrcDetectsSingleBitFlip : Prop :=
  (∀ (bs : List Byte) (i k : Nat), bs.length = 8 → crcFold 0x00 bs = 0x00 → i < 8 → k < 8 →
    crcFold 0x00 (bs.modify i fun x => x ^^^ (1#8 <<< k)) ≠ 0x00) ∧
  crcFold 0x00 [0x02, 0x1C, 0xB8, 0x01, 0x00, 0x00, 0x00, 0xA2] = 0x00

/-! ### Search -/

/-- 44_search.md R151: with LDF set, SEARCH_NEXT and ALARM_NEXT report not-found with no frame; the Search
State is reset only where P_LDF_EXIT_RESETS says so. -/
def Obligations.LastDeviceExit : Prop :=
  ∀ (s : State) (i : Instr) (rc : Byte), PassOperation i rc → s.ldf = true →
    exec i s = .next
      (if s.params.ldfExitResets then
        { completed s [] 0x00 with ld := 0, lfd := 0, ldf := false, crc8 := 0x00 }
       else completed s [] 0x00)

/-- 44_search.md R152: a pass issues the bus reset, which writes SHORT; with no presence the Search State
is reset and not-found reported. -/
def Obligations.NoPresenceResetsSearchState : Prop :=
  ∀ (s : State) (i : Instr) (rc : Byte), PassOperation i rc → s.ldf = false →
    ∃ S fs, Waited s s.params.cmd1wrs none S fs ∧
      (S.getLsbD 1 = false → exec i s = .next { completed s fs 0x00 with
        short := S.getLsbD 2, ld := 0, lfd := 0, ldf := false, crc8 := 0x00 }) ∧
      (S.getLsbD 1 = true → ∃ gs t, exec i s = .next t ∧ t.hist = s.hist ++ fs ++ gs ∧ gs ≠ [] ∧
        t.short = S.getLsbD 2)

/-- 44_search.md R160 to R163, R148: SEARCH_FIRST and ALARM_FIRST are SEARCH_NEXT and ALARM_NEXT on the
state with LD, LFD, LDF and CRC8 zeroed and everything else kept. -/
def Obligations.FirstIsNextFromTheRoot : Prop :=
  ∀ s : State,
    exec .searchFirst s = exec .searchNext { s with ld := 0, lfd := 0, ldf := false, crc8 := 0x00 } ∧
    exec .alarmFirst s = exec .alarmNext { s with ld := 0, lfd := 0, ldf := false, crc8 := 0x00 }

/-- 44_search.md R169: the four search operations complete on every bridge, and write nothing but SHORT,
LD, LFD, LDF, CRC8, ROM, RESULT and HSR. -/
def Obligations.SearchWritesOnlyItsRegisters : Prop :=
  ∀ (s : State) (i : Instr), i.isSearch = true →
    ∃ fs t, exec i s = .next t ∧ t = { completed s fs t.result with
      short := t.short, ld := t.ld, lfd := t.lfd, ldf := t.ldf, crc8 := t.crc8, rom := t.rom,
      romSet := t.romSet }

/-- 44_search.md R150 to R159, on a bridge that is never busy and a pass that is not aborted: the frames
of the pass are the bus reset, the ROM command and 64 triplets with the steering directions of R153; ROM
takes the 64 directions taken; LFD takes the last zero-branch position within the first eight. If the
eight bytes fold to zero and ROM[0] ≠ 0, RESULT is 1, LD is the last zero-branch position and LDF is set
exactly when there is none; otherwise RESULT is 0 and LD, LFD, LDF and CRC8 are zero. -/
def Obligations.CompletePassOutcome : Prop :=
  ∀ (s : State) (i : Instr) (rc : Byte), PassOperation i rc → s.ldf = false → Idle s 66 →
    (s.answer 0).getLsbD 1 = true →
    (∀ p, 1 ≤ p → p ≤ 64 → noneResponded (tripletAnswer s p) = false) →
    ∃ t z z8, exec i s = .next t ∧ LastZeroBranch s 64 z ∧ LastZeroBranch s 8 z8 ∧
      t = { completed s (passFrames s rc 64) t.result with
        short := (s.answer 0).getLsbD 2, ld := t.ld, lfd := t.lfd, ldf := t.ldf, crc8 := 0x00,
        rom := t.rom, romSet := Vector.replicate 8 0xFF } ∧
      (∀ p, 1 ≤ p → p ≤ 64 → t.romBit p = (tripletAnswer s p).getLsbD 7) ∧
      (crcFold 0x00 t.rom.toList = 0x00 ∧ t.romByte 0 ≠ 0x00 →
        t.result = 0x01 ∧ t.ld.toNat = z ∧ t.ldf = decide (z = 0) ∧
          t.lfd = if z8 = 0 then s.lfd else BitVec.ofNat 4 z8) ∧
      (¬(crcFold 0x00 t.rom.toList = 0x00 ∧ t.romByte 0 ≠ 0x00) →
        t.result = 0x00 ∧ t.ld = 0 ∧ t.lfd = 0 ∧ t.ldf = false)

/-- 44_search.md R155, on a bridge that is never busy: when position p is the first whose two probe bits
are both 1, the pass ends after p triplets, the bit at p and every later one is not written, the Search
State is reset and not-found reported. -/
def Obligations.AbortedPassOutcome : Prop :=
  ∀ (s : State) (i : Instr) (rc : Byte) (p : Nat), PassOperation i rc → s.ldf = false →
    Idle s (p + 2) → (s.answer 0).getLsbD 1 = true → 1 ≤ p → p ≤ 64 →
    noneResponded (tripletAnswer s p) = true →
    (∀ q, 1 ≤ q → q < p → noneResponded (tripletAnswer s q) = false) →
    ∃ t, exec i s = .next t ∧
      t = { completed s (passFrames s rc p) 0x00 with
        short := (s.answer 0).getLsbD 2, ld := 0, lfd := 0, ldf := false, crc8 := 0x00, rom := t.rom,
        romSet := t.romSet } ∧
      (∀ q, 1 ≤ q → q < p → t.romBit q = (tripletAnswer s q).getLsbD 7) ∧
      ∀ q, p ≤ q → q ≤ 64 → t.romBit q = s.romBit q

/-- 44_search.md R168: when every triplet of a pass times out, ROM is eight zero bytes, the Search State
is reset and not-found reported; each of the 64 timeouts issued one device-reset frame. -/
def Obligations.AllTripletsTimeOut : Prop :=
  ∀ (s : State) (i : Instr) (rc : Byte), PassOperation i rc → s.ldf = false →
    Idle s 2 → (s.answer 0).getLsbD 1 = true →
    (∀ j < 64, ∀ k ≤ s.params.pollLimit,
      (s.answer (2 + j * (s.params.pollLimit + 2) + k)).getLsbD 0 = true) →
    ∃ fs t, exec i s = .next t ∧ fs.length = 2 + 64 * (s.params.pollLimit + 2) ∧
      (∀ j < 64, fs[2 + j * (s.params.pollLimit + 2) + (s.params.pollLimit + 1)]? =
        some (resetFrame s (2 + j * (s.params.pollLimit + 2) + (s.params.pollLimit + 1)))) ∧
      t = { completed s fs 0x00 with
        short := (s.answer 0).getLsbD 2, ld := 0, lfd := 0, ldf := false, crc8 := 0x00,
        rom := Vector.replicate 8 0x00, romSet := Vector.replicate 8 0xFF }

/-- 44_search.md R164, R158: TRIPLET d waits on the triplet command with argument 0x80 or 0x00 and returns
the snapshot as it is, 0x00 on a timeout; no Search State register changes. -/
def Obligations.TripletOutcome : Prop :=
  ∀ (s : State) (d : Bool), ∃ S fs,
    Waited s s.params.cmd1wt (some (if d then 0x80 else 0x00)) S fs ∧
    exec (.triplet d) s = .next (completed s fs S)

/-- 44_search.md R165, R166: on a faithful bridge each pass finds the next identifier in the order of
discovery. From the root (LD = 0) a pass finds the first device. After a pass that found d, with devices
still to come (LD > 0), it finds the first device after d. Either way RESULT is 1 and the state is again
one that finding that device leaves, so LDF is set exactly when no device is left. -/
def Obligations.EachPassFindsTheNextIdentifier : Prop :=
  ∀ (s : State) (devices : List Identifier) (i : Instr) (rc : Byte), PassOperation i rc →
    s.ldf = false → (∀ d ∈ devices, IdentifierOk d) → devices ≠ [] → Faithful s devices →
    (s.ld = 0 → ∃ t d', exec i s = .next t ∧ t.result = 0x01 ∧ Found t devices d' ∧
      ∀ e ∈ devices, e = d' ∨ Before d' e) ∧
    (∀ d, Found s devices d → 0 < s.ld.toNat →
      ∃ t d', exec i s = .next t ∧ t.result = 0x01 ∧ Found t devices d' ∧ Before d d' ∧
        ∀ e ∈ devices, Before d e → e = d' ∨ Before d' e)

/-- 44_search.md R166: on a bus of K distinct, well-formed devices, K passes from the root find each device
exactly once, in the order of discovery (R165); LDF becomes set exactly on the pass that finds the last
one, and the next pass reports not-found with no frame. `ss k` is the state after k passes; in each of the
K passes the bridge is faithful. -/
def Obligations.EnumerationFindsEveryDevice : Prop :=
  ∀ (ss : Nat → State) (devices : List Identifier) (i : Instr) (rc : Byte), PassOperation i rc →
    devices ≠ [] → devices.Nodup → (∀ d ∈ devices, IdentifierOk d) →
    (ss 0).ld = 0 → (ss 0).ldf = false →
    (∀ k < devices.length, Faithful (ss k) devices ∧ exec i (ss k) = .next (ss (k + 1))) →
    (∀ d ∈ devices, ∃ k < devices.length, RomHolds (ss (k + 1)) d) ∧
    (∀ j k d e, j < k → k < devices.length → RomHolds (ss (j + 1)) d → RomHolds (ss (k + 1)) e →
      Before d e) ∧
    (∀ k < devices.length, (ss (k + 1)).result = 0x01 ∧
      ((ss (k + 1)).ldf = true ↔ k + 1 = devices.length)) ∧
    ∃ t, exec i (ss devices.length) = .next t ∧ t.result = 0x00 ∧
      t.hist = (ss devices.length).hist

/-! ### Whole-machine rules -/

/-- 10_state.md R46, R47: the invariant `Inv` holds after reset. -/
def Obligations.InvariantHoldsAtReset : Prop := Inv State.reset

/-- 10_state.md R46, R47: every step keeps the invariant, from every state that has it: HSR is 0x00 or
0x02, `LD ≤ 64`, `LFD ≤ 8`, LD > 0 only with LDF = 0, LD > 0 or LDF = 1 only with an accepted identifier in
ROM; and the buffer's canonical form, which is the model's own (log entry 6). -/
def Obligations.StepKeepsInvariant : Prop :=
  ∀ s t : State, Inv s → step s = .next t → Inv t

/-- 30_encoding.md R93, with R86 to R90: every frame an operation adds to the history is a poll re-read or
one of the eight commands that have a value, with an argument byte of its form; the history is only ever
extended. -/
def Obligations.OnlyLegalFramesAreSent : Prop :=
  ∀ (s t : State) (i : Instr), i.isOperation = true → exec i s = .next t →
    ∃ fs, t.hist = s.hist ++ fs ∧ ∀ f ∈ fs, LegalFrame s.params f

/-- 70_reset_and_hazards.md R202: no operation issues more frames than its worst case. -/
def Obligations.FrameCountsAreBounded : Prop :=
  ∀ (s t : State) (i : Instr), exec i s = .next t →
    t.hist.length ≤ s.hist.length + worstFrames s i

/-- 10_state.md R38, 20_memory.md R69: the replies recorded in the history are the bridge's answers, in
order: the k-th frame a step adds carries the k-th answer. The last clause is the model's own choice, not a
rule: the answers still to come are those not yet used (log entry 4), unless the step is a host read, which
may draw a free value from the counter the answers share (log entry 7). -/
def Obligations.HistoryRecordsTheAnswers : Prop :=
  ∀ s t : State, step s = .next t → ∃ fs : List Frame, t.hist = s.hist ++ fs ∧
    (∀ k f, fs[k]? = some f → f.reply = s.answer k) ∧ ∀ k, t.answer k = s.answer (fs.length + k) ∨
      (fs = [] ∧ ∃ a n rest, s.port = .memRead a n :: rest)

/-- 70_reset_and_hazards.md R192: the parameters are fixed. -/
def Obligations.ParametersNeverChange : Prop :=
  ∀ s t : State, step s = .next t → t.params = s.params

/-- 10_state.md R35, 42_bus.md R118: LD, LFD, LDF and ROM are written by the search operations only, and
CRC8 by those and the CRC operations. -/
def Obligations.SearchStateHasOneWriter : Prop :=
  ∀ (s t : State) (i : Instr), i.isSearch = false → exec i s = .next t →
    t.ld = s.ld ∧ t.lfd = s.lfd ∧ t.ldf = s.ldf ∧ t.rom = s.rom ∧ t.romSet = s.romSet ∧
    (t.crc8 = s.crc8 ∨ i = .crcClear ∨ ∃ v, i = .crcUpdate v)

/-- 10_state.md R48: CRC8 stays 0 under every instruction but CRC_UPDATE, and a search that has not taken
the LDF exit ends with CRC8 = 0 whatever it was. -/
def Obligations.Crc8StaysZeroWithoutCrcUpdate : Prop :=
  ∀ (s t : State) (i : Instr), exec i s = .next t →
    (s.crc8 = 0x00 → (∀ v, i ≠ .crcUpdate v) → t.crc8 = 0x00) ∧
    (i.isSearch = true → s.ldf = false → t.crc8 = 0x00)

/-- 10_state.md R22, R26, R28: CFG changes only by an operation that writes the configuration, SHORT only
by a bus reset, BUF only by BLOCK (and by host writes). -/
def Obligations.ConfigShortAndBufHaveTheirWriters : Prop :=
  ∀ (s t : State) (i : Instr), exec i s = .next t →
    (t.cfg = s.cfg ∨ i = .detect ∨ (∃ c, i = .writeConfig c) ∨ (∃ l, i = .setLevel l) ∨
      (∃ b, i = .writeBitPower b) ∨ ∃ v, i = .writeBytePower v) ∧
    (t.short = s.short ∨ i = .busReset ∨ i.isSearch = true) ∧
    (t.buf = s.buf ∨ ∃ n, i = .block n)

/-! ### Bridge rows -/

/-- 41_bridge.md R102, R103: each bridge command that has a value is one frame, of its opcode and argument,
and its only effect is that frame in the history. That a frame can be run by itself is the model's choice
(log entry 10). -/
def Obligations.BridgeCommandIsOneFrame : Prop :=
  ∀ s : State,
    exec .bridgeDeviceReset s = .next (s.answered [.txn s.params.cmdDrst none (s.answer 0)]) ∧
    (∀ c, exec (.bridgeWriteConfig c) s =
      .next (s.answered [.txn s.params.cmdWcfg (some (~~~c ++ c)) (s.answer 0)])) ∧
    exec .bridgeBusReset s = .next (s.answered [.txn s.params.cmd1wrs none (s.answer 0)]) ∧
    (∀ b, exec (.bridgeSingleBit b) s =
      .next (s.answered [.txn s.params.cmd1wsb (some (if b then 0x80 else 0x00)) (s.answer 0)])) ∧
    (∀ v, exec (.bridgeWriteByte v) s =
      .next (s.answered [.txn s.params.cmd1wwb (some v) (s.answer 0)])) ∧
    exec .bridgeReadByte s = .next (s.answered [.txn s.params.cmd1wrb none (s.answer 0)]) ∧
    exec .bridgeSetReadPointer s =
      .next (s.answered [.txn s.params.cmdSrp (some s.params.ptrData) (s.answer 0)]) ∧
    (∀ d, exec (.bridgeTriplet d) s =
      .next (s.answered [.txn s.params.cmd1wt (some (if d then 0x80 else 0x00)) (s.answer 0)]))

/-- 30_encoding.md R93: no rule issues write-byte-with-power, and its value is unknown; the row stops by
name. The form of the stop is the model's (log entry 3). -/
def Obligations.WriteByteWithPowerStops : Prop :=
  ∀ s : State, exec .bridgeWriteByteWithPower s = .refused .noRuleIssuesCommand

/-! ### Notation -/

/-- 30_encoding.md R99: disassembly followed by assembly gives back every legal word. -/
def Obligations.DisassemblyAssemblesBack : Prop :=
  ∀ (P : Params) (req : Word) (i : Instr), decode P (.request req) = .ok i →
    assemble P (readLine (disassemble P req)) = some req
end

