-- ==== Sys2Proof/Laws/State.lean ====
section
/-! SUPPORT. One lemma per field per named update of the state, so that no later proof unfolds a record
update. -/

namespace Sys2Proof.Machine

variable (s : State)

/-! ### `setResult` -/

@[simp] theorem State.setResult_params (v : Byte) : (s.setResult v).params = s.params := rfl
@[simp] theorem State.setResult_result (v : Byte) : (s.setResult v).result = v := rfl
@[simp] theorem State.setResult_hsr (v : Byte) : (s.setResult v).hsr = s.hsr := rfl
@[simp] theorem State.setResult_cfg (v : Byte) : (s.setResult v).cfg = s.cfg := rfl
@[simp] theorem State.setResult_short (v : Byte) : (s.setResult v).short = s.short := rfl
@[simp] theorem State.setResult_ld (v : Byte) : (s.setResult v).ld = s.ld := rfl
@[simp] theorem State.setResult_lfd (v : Byte) : (s.setResult v).lfd = s.lfd := rfl
@[simp] theorem State.setResult_ldf (v : Byte) : (s.setResult v).ldf = s.ldf := rfl
@[simp] theorem State.setResult_crc8 (v : Byte) : (s.setResult v).crc8 = s.crc8 := rfl
@[simp] theorem State.setResult_rom (v : Byte) : (s.setResult v).rom = s.rom := rfl
@[simp] theorem State.setResult_romSet (v : Byte) : (s.setResult v).romSet = s.romSet := rfl
@[simp] theorem State.setResult_buf (v : Byte) : (s.setResult v).buf = s.buf := rfl
@[simp] theorem State.setResult_hist (v : Byte) : (s.setResult v).hist = s.hist := rfl
@[simp] theorem State.setResult_port (v : Byte) : (s.setResult v).port = s.port := rfl
@[simp] theorem State.setResult_replies (v : Byte) : (s.setResult v).replies = s.replies := rfl
@[simp] theorem State.setResult_draws (v : Byte) : (s.setResult v).draws = s.draws := rfl
@[simp] theorem State.setResult_readData (v : Byte) : (s.setResult v).readData = s.readData := rfl

/-! ### `setHsr` -/

@[simp] theorem State.setHsr_params (v : Byte) : (s.setHsr v).params = s.params := rfl
@[simp] theorem State.setHsr_result (v : Byte) : (s.setHsr v).result = s.result := rfl
@[simp] theorem State.setHsr_hsr (v : Byte) : (s.setHsr v).hsr = v := rfl
@[simp] theorem State.setHsr_cfg (v : Byte) : (s.setHsr v).cfg = s.cfg := rfl
@[simp] theorem State.setHsr_short (v : Byte) : (s.setHsr v).short = s.short := rfl
@[simp] theorem State.setHsr_ld (v : Byte) : (s.setHsr v).ld = s.ld := rfl
@[simp] theorem State.setHsr_lfd (v : Byte) : (s.setHsr v).lfd = s.lfd := rfl
@[simp] theorem State.setHsr_ldf (v : Byte) : (s.setHsr v).ldf = s.ldf := rfl
@[simp] theorem State.setHsr_crc8 (v : Byte) : (s.setHsr v).crc8 = s.crc8 := rfl
@[simp] theorem State.setHsr_rom (v : Byte) : (s.setHsr v).rom = s.rom := rfl
@[simp] theorem State.setHsr_romSet (v : Byte) : (s.setHsr v).romSet = s.romSet := rfl
@[simp] theorem State.setHsr_buf (v : Byte) : (s.setHsr v).buf = s.buf := rfl
@[simp] theorem State.setHsr_hist (v : Byte) : (s.setHsr v).hist = s.hist := rfl
@[simp] theorem State.setHsr_port (v : Byte) : (s.setHsr v).port = s.port := rfl
@[simp] theorem State.setHsr_replies (v : Byte) : (s.setHsr v).replies = s.replies := rfl
@[simp] theorem State.setHsr_draws (v : Byte) : (s.setHsr v).draws = s.draws := rfl
@[simp] theorem State.setHsr_readData (v : Byte) : (s.setHsr v).readData = s.readData := rfl

/-! ### `setCfg` -/

@[simp] theorem State.setCfg_params (c : BitVec 4) : (s.setCfg c).params = s.params := rfl
@[simp] theorem State.setCfg_result (c : BitVec 4) : (s.setCfg c).result = s.result := rfl
@[simp] theorem State.setCfg_hsr (c : BitVec 4) : (s.setCfg c).hsr = s.hsr := rfl
@[simp] theorem State.setCfg_cfg (c : BitVec 4) : (s.setCfg c).cfg = c := rfl
@[simp] theorem State.setCfg_short (c : BitVec 4) : (s.setCfg c).short = s.short := rfl
@[simp] theorem State.setCfg_ld (c : BitVec 4) : (s.setCfg c).ld = s.ld := rfl
@[simp] theorem State.setCfg_lfd (c : BitVec 4) : (s.setCfg c).lfd = s.lfd := rfl
@[simp] theorem State.setCfg_ldf (c : BitVec 4) : (s.setCfg c).ldf = s.ldf := rfl
@[simp] theorem State.setCfg_crc8 (c : BitVec 4) : (s.setCfg c).crc8 = s.crc8 := rfl
@[simp] theorem State.setCfg_rom (c : BitVec 4) : (s.setCfg c).rom = s.rom := rfl
@[simp] theorem State.setCfg_romSet (c : BitVec 4) : (s.setCfg c).romSet = s.romSet := rfl
@[simp] theorem State.setCfg_buf (c : BitVec 4) : (s.setCfg c).buf = s.buf := rfl
@[simp] theorem State.setCfg_hist (c : BitVec 4) : (s.setCfg c).hist = s.hist := rfl
@[simp] theorem State.setCfg_port (c : BitVec 4) : (s.setCfg c).port = s.port := rfl
@[simp] theorem State.setCfg_replies (c : BitVec 4) : (s.setCfg c).replies = s.replies := rfl
@[simp] theorem State.setCfg_draws (c : BitVec 4) : (s.setCfg c).draws = s.draws := rfl
@[simp] theorem State.setCfg_readData (c : BitVec 4) : (s.setCfg c).readData = s.readData := rfl

/-! ### `setShort` -/

@[simp] theorem State.setShort_params (b : Bool) : (s.setShort b).params = s.params := rfl
@[simp] theorem State.setShort_result (b : Bool) : (s.setShort b).result = s.result := rfl
@[simp] theorem State.setShort_hsr (b : Bool) : (s.setShort b).hsr = s.hsr := rfl
@[simp] theorem State.setShort_cfg (b : Bool) : (s.setShort b).cfg = s.cfg := rfl
@[simp] theorem State.setShort_short (b : Bool) : (s.setShort b).short = b := rfl
@[simp] theorem State.setShort_ld (b : Bool) : (s.setShort b).ld = s.ld := rfl
@[simp] theorem State.setShort_lfd (b : Bool) : (s.setShort b).lfd = s.lfd := rfl
@[simp] theorem State.setShort_ldf (b : Bool) : (s.setShort b).ldf = s.ldf := rfl
@[simp] theorem State.setShort_crc8 (b : Bool) : (s.setShort b).crc8 = s.crc8 := rfl
@[simp] theorem State.setShort_rom (b : Bool) : (s.setShort b).rom = s.rom := rfl
@[simp] theorem State.setShort_romSet (b : Bool) : (s.setShort b).romSet = s.romSet := rfl
@[simp] theorem State.setShort_buf (b : Bool) : (s.setShort b).buf = s.buf := rfl
@[simp] theorem State.setShort_hist (b : Bool) : (s.setShort b).hist = s.hist := rfl
@[simp] theorem State.setShort_port (b : Bool) : (s.setShort b).port = s.port := rfl
@[simp] theorem State.setShort_replies (b : Bool) : (s.setShort b).replies = s.replies := rfl
@[simp] theorem State.setShort_draws (b : Bool) : (s.setShort b).draws = s.draws := rfl
@[simp] theorem State.setShort_readData (b : Bool) : (s.setShort b).readData = s.readData := rfl

/-! ### `setLd` -/

@[simp] theorem State.setLd_params (v : BitVec 7) : (s.setLd v).params = s.params := rfl
@[simp] theorem State.setLd_result (v : BitVec 7) : (s.setLd v).result = s.result := rfl
@[simp] theorem State.setLd_hsr (v : BitVec 7) : (s.setLd v).hsr = s.hsr := rfl
@[simp] theorem State.setLd_cfg (v : BitVec 7) : (s.setLd v).cfg = s.cfg := rfl
@[simp] theorem State.setLd_short (v : BitVec 7) : (s.setLd v).short = s.short := rfl
@[simp] theorem State.setLd_ld (v : BitVec 7) : (s.setLd v).ld = v := rfl
@[simp] theorem State.setLd_lfd (v : BitVec 7) : (s.setLd v).lfd = s.lfd := rfl
@[simp] theorem State.setLd_ldf (v : BitVec 7) : (s.setLd v).ldf = s.ldf := rfl
@[simp] theorem State.setLd_crc8 (v : BitVec 7) : (s.setLd v).crc8 = s.crc8 := rfl
@[simp] theorem State.setLd_rom (v : BitVec 7) : (s.setLd v).rom = s.rom := rfl
@[simp] theorem State.setLd_romSet (v : BitVec 7) : (s.setLd v).romSet = s.romSet := rfl
@[simp] theorem State.setLd_buf (v : BitVec 7) : (s.setLd v).buf = s.buf := rfl
@[simp] theorem State.setLd_hist (v : BitVec 7) : (s.setLd v).hist = s.hist := rfl
@[simp] theorem State.setLd_port (v : BitVec 7) : (s.setLd v).port = s.port := rfl
@[simp] theorem State.setLd_replies (v : BitVec 7) : (s.setLd v).replies = s.replies := rfl
@[simp] theorem State.setLd_draws (v : BitVec 7) : (s.setLd v).draws = s.draws := rfl
@[simp] theorem State.setLd_readData (v : BitVec 7) : (s.setLd v).readData = s.readData := rfl

/-! ### `setLfd` -/

@[simp] theorem State.setLfd_params (v : BitVec 4) : (s.setLfd v).params = s.params := rfl
@[simp] theorem State.setLfd_result (v : BitVec 4) : (s.setLfd v).result = s.result := rfl
@[simp] theorem State.setLfd_hsr (v : BitVec 4) : (s.setLfd v).hsr = s.hsr := rfl
@[simp] theorem State.setLfd_cfg (v : BitVec 4) : (s.setLfd v).cfg = s.cfg := rfl
@[simp] theorem State.setLfd_short (v : BitVec 4) : (s.setLfd v).short = s.short := rfl
@[simp] theorem State.setLfd_ld (v : BitVec 4) : (s.setLfd v).ld = s.ld := rfl
@[simp] theorem State.setLfd_lfd (v : BitVec 4) : (s.setLfd v).lfd = v := rfl
@[simp] theorem State.setLfd_ldf (v : BitVec 4) : (s.setLfd v).ldf = s.ldf := rfl
@[simp] theorem State.setLfd_crc8 (v : BitVec 4) : (s.setLfd v).crc8 = s.crc8 := rfl
@[simp] theorem State.setLfd_rom (v : BitVec 4) : (s.setLfd v).rom = s.rom := rfl
@[simp] theorem State.setLfd_romSet (v : BitVec 4) : (s.setLfd v).romSet = s.romSet := rfl
@[simp] theorem State.setLfd_buf (v : BitVec 4) : (s.setLfd v).buf = s.buf := rfl
@[simp] theorem State.setLfd_hist (v : BitVec 4) : (s.setLfd v).hist = s.hist := rfl
@[simp] theorem State.setLfd_port (v : BitVec 4) : (s.setLfd v).port = s.port := rfl
@[simp] theorem State.setLfd_replies (v : BitVec 4) : (s.setLfd v).replies = s.replies := rfl
@[simp] theorem State.setLfd_draws (v : BitVec 4) : (s.setLfd v).draws = s.draws := rfl
@[simp] theorem State.setLfd_readData (v : BitVec 4) : (s.setLfd v).readData = s.readData := rfl

/-! ### `setLdf` -/

@[simp] theorem State.setLdf_params (b : Bool) : (s.setLdf b).params = s.params := rfl
@[simp] theorem State.setLdf_result (b : Bool) : (s.setLdf b).result = s.result := rfl
@[simp] theorem State.setLdf_hsr (b : Bool) : (s.setLdf b).hsr = s.hsr := rfl
@[simp] theorem State.setLdf_cfg (b : Bool) : (s.setLdf b).cfg = s.cfg := rfl
@[simp] theorem State.setLdf_short (b : Bool) : (s.setLdf b).short = s.short := rfl
@[simp] theorem State.setLdf_ld (b : Bool) : (s.setLdf b).ld = s.ld := rfl
@[simp] theorem State.setLdf_lfd (b : Bool) : (s.setLdf b).lfd = s.lfd := rfl
@[simp] theorem State.setLdf_ldf (b : Bool) : (s.setLdf b).ldf = b := rfl
@[simp] theorem State.setLdf_crc8 (b : Bool) : (s.setLdf b).crc8 = s.crc8 := rfl
@[simp] theorem State.setLdf_rom (b : Bool) : (s.setLdf b).rom = s.rom := rfl
@[simp] theorem State.setLdf_romSet (b : Bool) : (s.setLdf b).romSet = s.romSet := rfl
@[simp] theorem State.setLdf_buf (b : Bool) : (s.setLdf b).buf = s.buf := rfl
@[simp] theorem State.setLdf_hist (b : Bool) : (s.setLdf b).hist = s.hist := rfl
@[simp] theorem State.setLdf_port (b : Bool) : (s.setLdf b).port = s.port := rfl
@[simp] theorem State.setLdf_replies (b : Bool) : (s.setLdf b).replies = s.replies := rfl
@[simp] theorem State.setLdf_draws (b : Bool) : (s.setLdf b).draws = s.draws := rfl
@[simp] theorem State.setLdf_readData (b : Bool) : (s.setLdf b).readData = s.readData := rfl

/-! ### `setCrc8` -/

@[simp] theorem State.setCrc8_params (v : Byte) : (s.setCrc8 v).params = s.params := rfl
@[simp] theorem State.setCrc8_result (v : Byte) : (s.setCrc8 v).result = s.result := rfl
@[simp] theorem State.setCrc8_hsr (v : Byte) : (s.setCrc8 v).hsr = s.hsr := rfl
@[simp] theorem State.setCrc8_cfg (v : Byte) : (s.setCrc8 v).cfg = s.cfg := rfl
@[simp] theorem State.setCrc8_short (v : Byte) : (s.setCrc8 v).short = s.short := rfl
@[simp] theorem State.setCrc8_ld (v : Byte) : (s.setCrc8 v).ld = s.ld := rfl
@[simp] theorem State.setCrc8_lfd (v : Byte) : (s.setCrc8 v).lfd = s.lfd := rfl
@[simp] theorem State.setCrc8_ldf (v : Byte) : (s.setCrc8 v).ldf = s.ldf := rfl
@[simp] theorem State.setCrc8_crc8 (v : Byte) : (s.setCrc8 v).crc8 = v := rfl
@[simp] theorem State.setCrc8_rom (v : Byte) : (s.setCrc8 v).rom = s.rom := rfl
@[simp] theorem State.setCrc8_romSet (v : Byte) : (s.setCrc8 v).romSet = s.romSet := rfl
@[simp] theorem State.setCrc8_buf (v : Byte) : (s.setCrc8 v).buf = s.buf := rfl
@[simp] theorem State.setCrc8_hist (v : Byte) : (s.setCrc8 v).hist = s.hist := rfl
@[simp] theorem State.setCrc8_port (v : Byte) : (s.setCrc8 v).port = s.port := rfl
@[simp] theorem State.setCrc8_replies (v : Byte) : (s.setCrc8 v).replies = s.replies := rfl
@[simp] theorem State.setCrc8_draws (v : Byte) : (s.setCrc8 v).draws = s.draws := rfl
@[simp] theorem State.setCrc8_readData (v : Byte) : (s.setCrc8 v).readData = s.readData := rfl

/-! ### `setRom` -/

@[simp] theorem State.setRom_params (r k : Vector Byte 8) : (s.setRom r k).params = s.params := rfl
@[simp] theorem State.setRom_result (r k : Vector Byte 8) : (s.setRom r k).result = s.result := rfl
@[simp] theorem State.setRom_hsr (r k : Vector Byte 8) : (s.setRom r k).hsr = s.hsr := rfl
@[simp] theorem State.setRom_cfg (r k : Vector Byte 8) : (s.setRom r k).cfg = s.cfg := rfl
@[simp] theorem State.setRom_short (r k : Vector Byte 8) : (s.setRom r k).short = s.short := rfl
@[simp] theorem State.setRom_ld (r k : Vector Byte 8) : (s.setRom r k).ld = s.ld := rfl
@[simp] theorem State.setRom_lfd (r k : Vector Byte 8) : (s.setRom r k).lfd = s.lfd := rfl
@[simp] theorem State.setRom_ldf (r k : Vector Byte 8) : (s.setRom r k).ldf = s.ldf := rfl
@[simp] theorem State.setRom_crc8 (r k : Vector Byte 8) : (s.setRom r k).crc8 = s.crc8 := rfl
@[simp] theorem State.setRom_rom (r k : Vector Byte 8) : (s.setRom r k).rom = r := rfl
@[simp] theorem State.setRom_romSet (r k : Vector Byte 8) : (s.setRom r k).romSet = k := rfl
@[simp] theorem State.setRom_buf (r k : Vector Byte 8) : (s.setRom r k).buf = s.buf := rfl
@[simp] theorem State.setRom_hist (r k : Vector Byte 8) : (s.setRom r k).hist = s.hist := rfl
@[simp] theorem State.setRom_port (r k : Vector Byte 8) : (s.setRom r k).port = s.port := rfl
@[simp] theorem State.setRom_replies (r k : Vector Byte 8) : (s.setRom r k).replies = s.replies := rfl
@[simp] theorem State.setRom_draws (r k : Vector Byte 8) : (s.setRom r k).draws = s.draws := rfl
@[simp] theorem State.setRom_readData (r k : Vector Byte 8) : (s.setRom r k).readData = s.readData := rfl

/-! ### `setBuf` -/

@[simp] theorem State.setBuf_params (m : Memory) : (s.setBuf m).params = s.params := rfl
@[simp] theorem State.setBuf_result (m : Memory) : (s.setBuf m).result = s.result := rfl
@[simp] theorem State.setBuf_hsr (m : Memory) : (s.setBuf m).hsr = s.hsr := rfl
@[simp] theorem State.setBuf_cfg (m : Memory) : (s.setBuf m).cfg = s.cfg := rfl
@[simp] theorem State.setBuf_short (m : Memory) : (s.setBuf m).short = s.short := rfl
@[simp] theorem State.setBuf_ld (m : Memory) : (s.setBuf m).ld = s.ld := rfl
@[simp] theorem State.setBuf_lfd (m : Memory) : (s.setBuf m).lfd = s.lfd := rfl
@[simp] theorem State.setBuf_ldf (m : Memory) : (s.setBuf m).ldf = s.ldf := rfl
@[simp] theorem State.setBuf_crc8 (m : Memory) : (s.setBuf m).crc8 = s.crc8 := rfl
@[simp] theorem State.setBuf_rom (m : Memory) : (s.setBuf m).rom = s.rom := rfl
@[simp] theorem State.setBuf_romSet (m : Memory) : (s.setBuf m).romSet = s.romSet := rfl
@[simp] theorem State.setBuf_buf (m : Memory) : (s.setBuf m).buf = m := rfl
@[simp] theorem State.setBuf_hist (m : Memory) : (s.setBuf m).hist = s.hist := rfl
@[simp] theorem State.setBuf_port (m : Memory) : (s.setBuf m).port = s.port := rfl
@[simp] theorem State.setBuf_replies (m : Memory) : (s.setBuf m).replies = s.replies := rfl
@[simp] theorem State.setBuf_draws (m : Memory) : (s.setBuf m).draws = s.draws := rfl
@[simp] theorem State.setBuf_readData (m : Memory) : (s.setBuf m).readData = s.readData := rfl

/-! ### `setPort` -/

@[simp] theorem State.setPort_params (es : List PortEvent) : (s.setPort es).params = s.params := rfl
@[simp] theorem State.setPort_result (es : List PortEvent) : (s.setPort es).result = s.result := rfl
@[simp] theorem State.setPort_hsr (es : List PortEvent) : (s.setPort es).hsr = s.hsr := rfl
@[simp] theorem State.setPort_cfg (es : List PortEvent) : (s.setPort es).cfg = s.cfg := rfl
@[simp] theorem State.setPort_short (es : List PortEvent) : (s.setPort es).short = s.short := rfl
@[simp] theorem State.setPort_ld (es : List PortEvent) : (s.setPort es).ld = s.ld := rfl
@[simp] theorem State.setPort_lfd (es : List PortEvent) : (s.setPort es).lfd = s.lfd := rfl
@[simp] theorem State.setPort_ldf (es : List PortEvent) : (s.setPort es).ldf = s.ldf := rfl
@[simp] theorem State.setPort_crc8 (es : List PortEvent) : (s.setPort es).crc8 = s.crc8 := rfl
@[simp] theorem State.setPort_rom (es : List PortEvent) : (s.setPort es).rom = s.rom := rfl
@[simp] theorem State.setPort_romSet (es : List PortEvent) : (s.setPort es).romSet = s.romSet := rfl
@[simp] theorem State.setPort_buf (es : List PortEvent) : (s.setPort es).buf = s.buf := rfl
@[simp] theorem State.setPort_hist (es : List PortEvent) : (s.setPort es).hist = s.hist := rfl
@[simp] theorem State.setPort_port (es : List PortEvent) : (s.setPort es).port = es := rfl
@[simp] theorem State.setPort_replies (es : List PortEvent) : (s.setPort es).replies = s.replies := rfl
@[simp] theorem State.setPort_draws (es : List PortEvent) : (s.setPort es).draws = s.draws := rfl
@[simp] theorem State.setPort_readData (es : List PortEvent) : (s.setPort es).readData = s.readData := rfl

/-! ### `setReadData` -/

@[simp] theorem State.setReadData_params (v : Option Byte) : (s.setReadData v).params = s.params := rfl
@[simp] theorem State.setReadData_result (v : Option Byte) : (s.setReadData v).result = s.result := rfl
@[simp] theorem State.setReadData_hsr (v : Option Byte) : (s.setReadData v).hsr = s.hsr := rfl
@[simp] theorem State.setReadData_cfg (v : Option Byte) : (s.setReadData v).cfg = s.cfg := rfl
@[simp] theorem State.setReadData_short (v : Option Byte) : (s.setReadData v).short = s.short := rfl
@[simp] theorem State.setReadData_ld (v : Option Byte) : (s.setReadData v).ld = s.ld := rfl
@[simp] theorem State.setReadData_lfd (v : Option Byte) : (s.setReadData v).lfd = s.lfd := rfl
@[simp] theorem State.setReadData_ldf (v : Option Byte) : (s.setReadData v).ldf = s.ldf := rfl
@[simp] theorem State.setReadData_crc8 (v : Option Byte) : (s.setReadData v).crc8 = s.crc8 := rfl
@[simp] theorem State.setReadData_rom (v : Option Byte) : (s.setReadData v).rom = s.rom := rfl
@[simp] theorem State.setReadData_romSet (v : Option Byte) : (s.setReadData v).romSet = s.romSet := rfl
@[simp] theorem State.setReadData_buf (v : Option Byte) : (s.setReadData v).buf = s.buf := rfl
@[simp] theorem State.setReadData_hist (v : Option Byte) : (s.setReadData v).hist = s.hist := rfl
@[simp] theorem State.setReadData_port (v : Option Byte) : (s.setReadData v).port = s.port := rfl
@[simp] theorem State.setReadData_replies (v : Option Byte) : (s.setReadData v).replies = s.replies := rfl
@[simp] theorem State.setReadData_draws (v : Option Byte) : (s.setReadData v).draws = s.draws := rfl
@[simp] theorem State.setReadData_readData (v : Option Byte) : (s.setReadData v).readData = v := rfl

/-! ### `setDraws` -/

@[simp] theorem State.setDraws_params (n : Nat) : (s.setDraws n).params = s.params := rfl
@[simp] theorem State.setDraws_result (n : Nat) : (s.setDraws n).result = s.result := rfl
@[simp] theorem State.setDraws_hsr (n : Nat) : (s.setDraws n).hsr = s.hsr := rfl
@[simp] theorem State.setDraws_cfg (n : Nat) : (s.setDraws n).cfg = s.cfg := rfl
@[simp] theorem State.setDraws_short (n : Nat) : (s.setDraws n).short = s.short := rfl
@[simp] theorem State.setDraws_ld (n : Nat) : (s.setDraws n).ld = s.ld := rfl
@[simp] theorem State.setDraws_lfd (n : Nat) : (s.setDraws n).lfd = s.lfd := rfl
@[simp] theorem State.setDraws_ldf (n : Nat) : (s.setDraws n).ldf = s.ldf := rfl
@[simp] theorem State.setDraws_crc8 (n : Nat) : (s.setDraws n).crc8 = s.crc8 := rfl
@[simp] theorem State.setDraws_rom (n : Nat) : (s.setDraws n).rom = s.rom := rfl
@[simp] theorem State.setDraws_romSet (n : Nat) : (s.setDraws n).romSet = s.romSet := rfl
@[simp] theorem State.setDraws_buf (n : Nat) : (s.setDraws n).buf = s.buf := rfl
@[simp] theorem State.setDraws_hist (n : Nat) : (s.setDraws n).hist = s.hist := rfl
@[simp] theorem State.setDraws_port (n : Nat) : (s.setDraws n).port = s.port := rfl
@[simp] theorem State.setDraws_replies (n : Nat) : (s.setDraws n).replies = s.replies := rfl
@[simp] theorem State.setDraws_draws (n : Nat) : (s.setDraws n).draws = n := rfl
@[simp] theorem State.setDraws_readData (n : Nat) : (s.setDraws n).readData = s.readData := rfl

/-! ### `answered` -/

@[simp] theorem State.answered_params (fs : List Frame) : (s.answered fs).params = s.params := rfl
@[simp] theorem State.answered_result (fs : List Frame) : (s.answered fs).result = s.result := rfl
@[simp] theorem State.answered_hsr (fs : List Frame) : (s.answered fs).hsr = s.hsr := rfl
@[simp] theorem State.answered_cfg (fs : List Frame) : (s.answered fs).cfg = s.cfg := rfl
@[simp] theorem State.answered_short (fs : List Frame) : (s.answered fs).short = s.short := rfl
@[simp] theorem State.answered_ld (fs : List Frame) : (s.answered fs).ld = s.ld := rfl
@[simp] theorem State.answered_lfd (fs : List Frame) : (s.answered fs).lfd = s.lfd := rfl
@[simp] theorem State.answered_ldf (fs : List Frame) : (s.answered fs).ldf = s.ldf := rfl
@[simp] theorem State.answered_crc8 (fs : List Frame) : (s.answered fs).crc8 = s.crc8 := rfl
@[simp] theorem State.answered_rom (fs : List Frame) : (s.answered fs).rom = s.rom := rfl
@[simp] theorem State.answered_romSet (fs : List Frame) : (s.answered fs).romSet = s.romSet := rfl
@[simp] theorem State.answered_buf (fs : List Frame) : (s.answered fs).buf = s.buf := rfl
@[simp] theorem State.answered_hist (fs : List Frame) : (s.answered fs).hist = s.hist ++ fs := rfl
@[simp] theorem State.answered_port (fs : List Frame) : (s.answered fs).port = s.port := rfl
@[simp] theorem State.answered_replies (fs : List Frame) : (s.answered fs).replies = s.replies.drop fs.length := rfl
@[simp] theorem State.answered_draws (fs : List Frame) : (s.answered fs).draws = s.draws + (fs.length - s.replies.length) := rfl
@[simp] theorem State.answered_readData (fs : List Frame) : (s.answered fs).readData = s.readData := rfl

end Sys2Proof.Machine
end

