-- ==== Sys2Proof/Laws/Port.lean ====
section
/-! SUPPORT. The bridge port: the answers to come after some frames, and what a frame does. -/

namespace Sys2Proof.Machine

@[simp] theorem State.answered_nil (s : State) : s.answered [] = s := by
  simp [State.answered]

@[simp] theorem State.answered_answered (s : State) (fs gs : List Frame) :
    (s.answered fs).answered gs = s.answered (fs ++ gs) := by
  simp only [State.answered, List.append_assoc, List.drop_drop, List.length_append, List.length_drop]
  congr 1
  omega

@[simp] theorem State.answer_answered (s : State) (fs : List Frame) (k : Nat) :
    (s.answered fs).answer k = s.answer (fs.length + k) := by
  simp only [State.answer, State.answered_replies, State.answered_draws, List.getElem?_drop,
    List.length_drop]
  split
  · rfl
  · rename_i h
    have : s.replies.length ≤ fs.length + k := by simpa using h
    congr 1
    omega

/-- The answers to come depend only on the scripted answers and the count of draws. -/
theorem State.answer_congr {s t : State} (hr : t.replies = s.replies) (hd : t.draws = s.draws)
    (k : Nat) : t.answer k = s.answer k := by
  simp [State.answer, hr, hd]

@[simp] theorem State.answer_setResult (s : State) (v k) : (s.setResult v).answer k = s.answer k := rfl
@[simp] theorem State.answer_setHsr (s : State) (v k) : (s.setHsr v).answer k = s.answer k := rfl
@[simp] theorem State.answer_setCfg (s : State) (v k) : (s.setCfg v).answer k = s.answer k := rfl
@[simp] theorem State.answer_setShort (s : State) (v k) : (s.setShort v).answer k = s.answer k := rfl
@[simp] theorem State.answer_setLd (s : State) (v k) : (s.setLd v).answer k = s.answer k := rfl
@[simp] theorem State.answer_setLfd (s : State) (v k) : (s.setLfd v).answer k = s.answer k := rfl
@[simp] theorem State.answer_setLdf (s : State) (v k) : (s.setLdf v).answer k = s.answer k := rfl
@[simp] theorem State.answer_setCrc8 (s : State) (v k) : (s.setCrc8 v).answer k = s.answer k := rfl
@[simp] theorem State.answer_setRom (s : State) (r v k) : (s.setRom r v).answer k = s.answer k := rfl
@[simp] theorem State.answer_setBuf (s : State) (v k) : (s.setBuf v).answer k = s.answer k := rfl
@[simp] theorem State.answer_setPort (s : State) (v k) : (s.setPort v).answer k = s.answer k := rfl

/-! ### Frames and register writes commute -/

@[simp] theorem State.setResult_answered (s : State) (v fs) :
    (s.setResult v).answered fs = (s.answered fs).setResult v := rfl
@[simp] theorem State.setHsr_answered (s : State) (v fs) :
    (s.setHsr v).answered fs = (s.answered fs).setHsr v := rfl
@[simp] theorem State.setCfg_answered (s : State) (c fs) :
    (s.setCfg c).answered fs = (s.answered fs).setCfg c := rfl
@[simp] theorem State.setShort_answered (s : State) (b fs) :
    (s.setShort b).answered fs = (s.answered fs).setShort b := rfl
@[simp] theorem State.setLd_answered (s : State) (v fs) :
    (s.setLd v).answered fs = (s.answered fs).setLd v := rfl
@[simp] theorem State.setLfd_answered (s : State) (v fs) :
    (s.setLfd v).answered fs = (s.answered fs).setLfd v := rfl
@[simp] theorem State.setLdf_answered (s : State) (b fs) :
    (s.setLdf b).answered fs = (s.answered fs).setLdf b := rfl
@[simp] theorem State.setCrc8_answered (s : State) (v fs) :
    (s.setCrc8 v).answered fs = (s.answered fs).setCrc8 v := rfl
@[simp] theorem State.setBuf_answered (s : State) (m fs) :
    (s.setBuf m).answered fs = (s.answered fs).setBuf m := rfl
@[simp] theorem State.setPort_answered (s : State) (es fs) :
    (s.setPort es).answered fs = (s.answered fs).setPort es := rfl

@[simp] theorem bridgeTxn_fst (cmd : Byte) (arg : Option Byte) (s : State) :
    (bridgeTxn cmd arg s).1 = s.answer 0 := rfl

@[simp] theorem bridgeTxn_snd (cmd : Byte) (arg : Option Byte) (s : State) :
    (bridgeTxn cmd arg s).2 = s.answered [.txn cmd arg (s.answer 0)] := rfl

@[simp] theorem bridgeRead_fst (s : State) : (bridgeRead s).1 = s.answer 0 := rfl

@[simp] theorem bridgeRead_snd (s : State) :
    (bridgeRead s).2 = s.answered [.read (s.answer 0)] := rfl

end Sys2Proof.Machine
end

