-- ==== Sys2Proof/Laws/Transport.lean ====
section
/-! SUPPORT. One lemma per transport procedure, saying everything it can do. -/

namespace Sys2Proof.Machine

@[simp] theorem command_eq (cmd : Byte) (arg : Option Byte) (s : State) :
    command cmd arg s = (s.answer 0, s.answered [.txn cmd arg (s.answer 0)]) := rfl

/-- The poll loop stops at the first snapshot with 1WB = 0, or when its re-reads are used up. -/
theorem poll_spec (left : Nat) (S : Byte) (s : State) :
    ∃ k ≤ left, (poll left S s).2 = s.answered ((List.range k).map fun j => .read (s.answer j)) ∧
      (poll left S s).1 = (if k = 0 then S else s.answer (k - 1)) ∧
      (∀ j < k, stBusy (if j = 0 then S else s.answer (j - 1)) = true) ∧
      (stBusy (poll left S s).1 = true → k = left) := by
  induction left generalizing S s with
  | zero => exact ⟨0, le_refl 0, by simp [poll], by simp [poll], by simp, fun _ => rfl⟩
  | succ left ih =>
    cases hS : stBusy S with
    | false =>
      refine ⟨0, Nat.zero_le _, ?_, ?_, by simp, ?_⟩
      · simp [poll, hS]
      · simp [poll, hS]
      · simp [poll, hS]
    | true =>
      obtain ⟨k, hk, h2, h1, hb, hl⟩ := ih (s.answer 0) (s.answered [.read (s.answer 0)])
      have hp : poll (left + 1) S s = poll left (s.answer 0) (s.answered [.read (s.answer 0)]) := by
        simp [poll, hS, bridgeRead]
      refine ⟨k + 1, by omega, ?_, ?_, ?_, ?_⟩
      · rw [hp, h2]
        simp only [State.answered_answered]
        congr 1
        rw [List.range_succ_eq_map]
        simp [Function.comp_def, Nat.add_comm 1]
      · rw [hp, h1]
        by_cases h0 : k = 0
        · simp [h0]
        · simp [h0]
          congr 1
          omega
      · intro j hj
        cases j with
        | zero => simpa using hS
        | succ j =>
          have := hb j (by omega)
          by_cases h0 : j = 0
          · simpa [h0] using this
          · simp only [h0, if_false, State.answer_answered, List.length_singleton] at this
            have e : 1 + (j - 1) = j := by omega
            simpa [e] using this
      · rw [hp]
        intro h
        simp [hl h]

@[simp] theorem bridgeResetSeq_eq (s : State) :
    bridgeResetSeq s =
      (resetAcknowledged s.params.resetAckMask s.params.resetAck (s.answer 0),
        s.answered [resetFrame s 0]) := rfl

@[simp] theorem pollFrames_length (s : State) (cmd : Byte) (arg : Option Byte) (k : Nat) :
    (pollFrames s cmd arg k).length = k + 1 := by
  simp [pollFrames]

/-- COMMAND_WAIT returns the snapshot and issues the frames that `Waited` describes, and does nothing
else (41_bridge.md R107). -/
theorem commandWait_spec (cmd : Byte) (arg : Option Byte) (s : State) :
    ∃ fs, Waited s cmd arg (commandWait cmd arg s).1 fs ∧
      (commandWait cmd arg s).2 = s.answered fs := by
  obtain ⟨k, hk, h2, h1, hb, hl⟩ :=
    poll_spec s.params.pollLimit (s.answer 0) (s.answered [.txn cmd arg (s.answer 0)])
  set p := poll s.params.pollLimit (s.answer 0) (s.answered [.txn cmd arg (s.answer 0)]) with hp
  have hc : commandWait cmd arg s = if stBusy p.1 then (0x00, (bridgeResetSeq p.2).2) else p := by
    simp only [commandWait, command_eq]
    rfl
  have hfst : p.1 = s.answer k := by
    rw [h1]
    by_cases h0 : k = 0
    · simp [h0]
    · simp only [h0, if_false, State.answer_answered, List.length_singleton]
      congr 1
      omega
  have hsnd : p.2 = s.answered (pollFrames s cmd arg k) := by
    rw [h2]
    simp [pollFrames, Nat.add_comm 1]
  have hbusy : ∀ j < k, stBusy (s.answer j) = true := by
    intro j hj
    have := hb j hj
    by_cases h0 : j = 0
    · simpa [h0] using this
    · simp only [h0, if_false, State.answer_answered, List.length_singleton] at this
      have e : 1 + (j - 1) = j := by omega
      rwa [e] at this
  cases hB : stBusy p.1 with
  | false =>
    refine ⟨pollFrames s cmd arg k, .inl ⟨k, hk, hbusy, by rw [← hfst, hB], ?_, rfl⟩, ?_⟩
    · rw [hc, hB]; exact hfst
    · rw [hc, hB]; exact hsnd
  | true =>
    obtain rfl := hl hB
    refine ⟨_, .inr ⟨?_, ?_, rfl⟩, ?_⟩
    · intro j hj
      rcases Nat.lt_or_eq_of_le hj with h | h
      · exact hbusy j h
      · rw [h, ← hfst, hB]
    · rw [hc, hB]; rfl
    · rw [hc, hB]; simp [hsnd, resetFrame]

/-- What COMMAND_WAIT does is determined by the bridge's answers. -/
theorem waited_unique {s : State} {cmd : Byte} {arg : Option Byte} {S S' : Byte} {fs fs' : List Frame}
    (h : Waited s cmd arg S fs) (h' : Waited s cmd arg S' fs') : S = S' ∧ fs = fs' := by
  rcases h with ⟨k, hk, hb, hn, rfl, rfl⟩ | ⟨hb, rfl, rfl⟩ <;>
    rcases h' with ⟨k', hk', hb', hn', rfl, rfl⟩ | ⟨hb', rfl, rfl⟩
  · have : k = k' := by
      rcases Nat.lt_trichotomy k k' with hlt | heq | hgt
      · rw [hb' k hlt] at hn; cases hn
      · exact heq
      · rw [hb k' hgt] at hn'; cases hn'
    simp [this]
  · rw [hb' k hk] at hn; cases hn
  · rw [hb k' hk'] at hn'; cases hn'
  · exact ⟨rfl, rfl⟩

/-- `commandWait` computes what `Waited` describes. -/
theorem commandWait_eq {s : State} {cmd : Byte} {arg : Option Byte} {S : Byte} {fs : List Frame}
    (h : Waited s cmd arg S fs) : commandWait cmd arg s = (S, s.answered fs) := by
  obtain ⟨gs, hg, h2⟩ := commandWait_spec cmd arg s
  obtain ⟨h1, rfl⟩ := waited_unique hg h
  exact Prod.ext h1 h2

/-- COMMAND_WAIT as one pair. -/
theorem commandWait_cases (cmd : Byte) (arg : Option Byte) (s : State) :
    ∃ S fs, Waited s cmd arg S fs ∧ commandWait cmd arg s = (S, s.answered fs) := by
  obtain ⟨fs, hw, -⟩ := commandWait_spec cmd arg s
  exact ⟨_, fs, hw, commandWait_eq hw⟩

/-- On a bridge whose next answer has 1WB = 0, COMMAND_WAIT is one frame. -/
theorem waited_of_idle {s : State} (cmd : Byte) (arg : Option Byte)
    (h : stBusy (s.answer 0) = false) :
    Waited s cmd arg (s.answer 0) [.txn cmd arg (s.answer 0)] :=
  .inl ⟨0, Nat.zero_le _, by simp, h, rfl, by simp [pollFrames]⟩

theorem commandWait_idle {s : State} (cmd : Byte) (arg : Option Byte)
    (h : stBusy (s.answer 0) = false) :
    commandWait cmd arg s = (s.answer 0, s.answered [.txn cmd arg (s.answer 0)]) :=
  commandWait_eq (waited_of_idle cmd arg h)

/-- COMMAND_WAIT issues at least one frame and at most P_POLL_LIMIT + 2 (41_bridge.md R107). -/
theorem waited_length {s : State} {cmd : Byte} {arg : Option Byte} {S : Byte} {fs : List Frame}
    (h : Waited s cmd arg S fs) : 1 ≤ fs.length ∧ fs.length ≤ s.params.pollLimit + 2 := by
  rcases h with ⟨k, hk, -, -, -, rfl⟩ | ⟨-, -, rfl⟩
  · simp; omega
  · simp

/-- The frames of a poll carry the answers in order. -/
theorem pollFrames_reply (s : State) (cmd : Byte) (arg : Option Byte) (n k : Nat) (f : Frame)
    (h : (pollFrames s cmd arg n)[k]? = some f) : f.reply = s.answer k := by
  cases k with
  | zero =>
    simp only [pollFrames, List.getElem?_cons_zero, Option.some.injEq] at h
    rw [← h]
    rfl
  | succ k =>
    simp only [pollFrames, List.getElem?_cons_succ, List.getElem?_map, Option.map_eq_some_iff] at h
    obtain ⟨j, hj, rfl⟩ := h
    obtain ⟨-, rfl⟩ := List.getElem?_eq_some_iff.mp hj
    simp [Frame.reply]

/-- The k-th frame of a COMMAND_WAIT carries the k-th answer. -/
theorem waited_reply {s : State} {cmd : Byte} {arg : Option Byte} {S : Byte} {fs : List Frame}
    (h : Waited s cmd arg S fs) (k : Nat) (f : Frame) (hk : fs[k]? = some f) : f.reply = s.answer k := by
  rcases h with ⟨n, -, -, -, -, rfl⟩ | ⟨-, -, rfl⟩
  · exact pollFrames_reply s cmd arg n k f hk
  · by_cases hlt : k < (pollFrames s cmd arg s.params.pollLimit).length
    · rw [List.getElem?_append_left hlt] at hk
      exact pollFrames_reply _ _ _ _ k f hk
    · rw [List.getElem?_append_right (by omega), List.getElem?_singleton] at hk
      split at hk
      · rename_i h0
        rw [pollFrames_length] at h0 hlt
        cases hk
        rw [show k = s.params.pollLimit + 1 by omega]
        rfl
      · cases hk

/-- COMMAND_WAIT depends on the parameters and the bridge's answers only. -/
theorem waited_congr {s t : State} (hp : t.params = s.params) (ha : ∀ k, t.answer k = s.answer k)
    (cmd : Byte) (arg : Option Byte) (S : Byte) (fs : List Frame) :
    Waited t cmd arg S fs ↔ Waited s cmd arg S fs := by
  simp [Waited, pollFrames, resetFrame, hp, ha]

/-- A configuration write depends on the parameters and the bridge's answers only. -/
theorem configWritten_congr {s t : State} (hp : t.params = s.params)
    (ha : ∀ k, t.answer k = s.answer k) (c : BitVec 4) (ok : Bool) (fs : List Frame) :
    ConfigWritten t c ok fs ↔ ConfigWritten s c ok fs := by
  simp [ConfigWritten, resetFrame, hp, ha]

/-- WRITE_CONFIG_SEQ: what `ConfigWritten` describes, and CFG on success only (41_bridge.md R110). -/
theorem writeConfigSeq_spec (c : BitVec 4) (s : State) :
    ∃ ok fs, ConfigWritten s c ok fs ∧
      writeConfigSeq c s = (ok, if ok then (s.answered fs).setCfg c else s.answered fs) := by
  by_cases h : (s.answer 0).extractLsb' 0 4 = c
  · refine ⟨true, _, .inl ⟨h, rfl, rfl⟩, ?_⟩
    simp [writeConfigSeq, echoMatches, h, wcfg]
  · refine ⟨false, _, .inr ⟨h, rfl, rfl⟩, ?_⟩
    simp [writeConfigSeq, echoMatches, h, wcfg, resetFrame]

end Sys2Proof.Machine
end

