-- ==== Sys2Proof/Laws/Bus.lean ====
section
/-! SUPPORT. One lemma per bus procedure, saying everything it can do; and the laws of the transfer
buffer. -/

namespace Sys2Proof.Machine

/-- BUS_RESET_SEQ (42_bus.md R119). -/
theorem busResetSeq_spec (s : State) :
    ∃ S fs, Waited s s.params.cmd1wrs none S fs ∧
      busResetSeq s = (stPresence S, (s.answered fs).setShort (stShort S)) := by
  obtain ⟨S, fs, hw, he⟩ := commandWait_cases s.params.cmd1wrs none s
  exact ⟨S, fs, hw, by simp only [busResetSeq, he]⟩

/-- TOUCH_BIT_SEQ (42_bus.md R121). -/
theorem touchBitSeq_spec (b : Bool) (s : State) :
    ∃ S fs, Waited s s.params.cmd1wsb (some (bitArg b)) S fs ∧
      touchBitSeq b s = (stSingleBit S, s.answered fs) := by
  obtain ⟨S, fs, hw, he⟩ := commandWait_cases s.params.cmd1wsb (some (bitArg b)) s
  exact ⟨S, fs, hw, by simp only [touchBitSeq, he]⟩

/-- WRITE_BYTE_SEQ (42_bus.md R125). -/
theorem writeByteSeq_spec (v : Byte) (s : State) :
    ∃ S fs, Waited s s.params.cmd1wwb (some v) S fs ∧ writeByteSeq v s = s.answered fs := by
  obtain ⟨S, fs, hw, he⟩ := commandWait_cases s.params.cmd1wwb (some v) s
  exact ⟨S, fs, hw, by simp only [writeByteSeq, he]⟩

/-- READ_BYTE_SEQ (42_bus.md R127). -/
theorem readByteSeq_spec (s : State) :
    ∃ d fs, ReadByteDone s d fs ∧ readByteSeq s = (d, s.answered fs) := by
  obtain ⟨S, ws, hw, he⟩ := commandWait_cases s.params.cmd1wrb none s
  exact ⟨_, _, ⟨S, ws, hw, rfl, rfl⟩, by simp [readByteSeq, he]⟩

/-- TOUCH_BYTE_SEQ (42_bus.md R129). -/
theorem touchByteSeq_spec (v : Byte) (s : State) :
    ∃ b fs, TouchByteDone s v b fs ∧ touchByteSeq v s = (b, s.answered fs) := by
  by_cases h : v = 0xFF
  · obtain ⟨d, fs, hd, he⟩ := readByteSeq_spec s
    exact ⟨d, fs, .inl ⟨h, hd⟩, by simp [touchByteSeq, h, he]⟩
  · obtain ⟨S, fs, hw, he⟩ := writeByteSeq_spec v s
    exact ⟨v, fs, .inr ⟨h, rfl, S, hw⟩, by simp only [touchByteSeq, if_neg h, he]⟩

/-- SET_LEVEL_SEQ(STANDARD) (42_bus.md R131). -/
theorem setLevelSeq_standard (s : State) :
    ∃ ok fs, ConfigWritten s (withoutStrongPullup s.cfg) ok fs ∧
      setLevelSeq .standard s =
        if ok then (0x00, (s.answered fs).setCfg (withoutStrongPullup s.cfg))
        else (0x02, s.answered fs) := by
  obtain ⟨ok, fs, hc, he⟩ := writeConfigSeq_spec (withoutStrongPullup s.cfg) s
  refine ⟨ok, fs, hc, ?_⟩
  cases ok <;> simp [setLevelSeq, he]

/-! ### The transfer buffer -/

/-- A read after a write: the written address gives the byte written, every other address what it gave
before. -/
theorem Memory.read_write (m : Memory) (a b : Nat) (v : Byte) :
    (m.write a v).read b = if b = a then some v else m.read b := by
  induction m with
  | nil => simp [Memory.write, Memory.read]
  | cons cell m ih =>
    obtain ⟨k, w⟩ := cell
    simp only [Memory.write]
    split
    · simp only [Memory.read]
    · split
      · rename_i h
        subst h
        simp only [Memory.read]
        split <;> rfl
      · simp only [Memory.read, ih]
        split
        · rename_i h1 h2 h3
          rw [if_neg (by omega)]
        · rfl

/-- The canonical form of a memory with at least one byte. -/
theorem Memory.wf_cons (a : Nat) (v : Byte) (m : Memory) :
    Memory.wf ((a, v) :: m) = true ↔ (∀ k w, (k, w) ∈ m.head? → a < k) ∧ m.wf = true := by
  cases m with
  | nil => simp [Memory.wf]
  | cons cell m =>
    obtain ⟨k, w⟩ := cell
    simp [Memory.wf]

/-- A write's first address is the written one or the old first one. -/
theorem Memory.head_write (m : Memory) (a : Nat) (v : Byte) :
    ∀ k w, (k, w) ∈ (m.write a v).head? → k = a ∨ ∃ w', (k, w') ∈ m.head? := by
  intro k w h
  cases m with
  | nil =>
    simp only [Memory.write, List.head?_cons, Option.mem_def, Option.some.injEq, Prod.mk.injEq] at h
    exact .inl h.1.symm
  | cons cell m =>
    obtain ⟨k', w'⟩ := cell
    simp only [Memory.write] at h
    split at h
    · simp at h; exact .inl h.1.symm
    · split at h
      · simp at h; exact .inl h.1.symm
      · simp at h; exact .inr ⟨w', by simp [h.1]⟩

/-- A write keeps the canonical form. -/
theorem Memory.wf_write (m : Memory) (a : Nat) (v : Byte) (h : m.wf = true) :
    (m.write a v).wf = true := by
  induction m with
  | nil => rfl
  | cons cell m ih =>
    obtain ⟨k, w⟩ := cell
    rw [Memory.wf_cons] at h
    simp only [Memory.write]
    split
    · rename_i hlt
      rw [Memory.wf_cons, Memory.wf_cons]
      exact ⟨by simp only [List.head?_cons, Option.mem_def, Option.some.injEq, Prod.mk.injEq]
                rintro _ _ ⟨rfl, -⟩; exact hlt, h⟩
    · split
      · rename_i heq
        subst heq
        rw [Memory.wf_cons]
        exact h
      · rw [Memory.wf_cons]
        refine ⟨fun k' w' hk => ?_, ih h.2⟩
        rcases Memory.head_write m a v k' w' hk with rfl | ⟨w'', hw⟩
        · omega
        · exact h.1 k' w'' hw

/-- A write lists the written address and the addresses listed before. -/
theorem Memory.mem_write (m : Memory) (a : Nat) (v : Byte) (cell : Host.Cell)
    (h : cell ∈ m.write a v) : cell = (a, v) ∨ cell ∈ m := by
  induction m with
  | nil => simpa [Memory.write] using h
  | cons c m ih =>
    obtain ⟨k, w⟩ := c
    simp only [Memory.write] at h
    split at h
    · simpa using h
    · split at h
      · simp only [List.mem_cons] at h ⊢
        tauto
      · simp only [List.mem_cons] at h ⊢
        rcases h with h | h
        · exact .inr (.inl h)
        · rcases ih h with h | h
          · exact .inl h
          · exact .inr (.inr h)

/-- A write within the buffer keeps the buffer within P_BUF_SIZE bytes. -/
theorem bufInRange_write (P : Params) (m : Memory) (a : Nat) (v : Byte)
    (h : bufInRange P m = true) (ha : inBuf P a = true) : bufInRange P (m.write a v) = true := by
  rw [bufInRange, List.all_eq_true] at *
  intro cell hc
  rcases Memory.mem_write m a v cell hc with rfl | hm
  · exact ha
  · exact h cell hm

/-- A byte of the buffer that has been set lies within P_BUF_SIZE bytes. -/
theorem inBuf_of_read (P : Params) (m : Memory) (a : Nat) (v : Byte)
    (h : bufInRange P m = true) (hr : m.read a = some v) : inBuf P a = true := by
  induction m with
  | nil => simp [Memory.read] at hr
  | cons c m ih =>
    obtain ⟨k, w⟩ := c
    simp only [bufInRange, List.all_cons, Bool.and_eq_true] at h
    simp only [Memory.read] at hr
    split at hr
    · rename_i heq
      rw [heq]
      exact h.1
    · exact ih h.2 hr

/-- A host write keeps the canonical form (20_memory.md R57). -/
theorem hostWrite_wf (addr : Addr) (v : Byte) (s : State) (h : s.buf.wf = true) :
    (hostWrite addr v s).buf.wf = true := by
  unfold hostWrite
  split
  · exact Memory.wf_write _ _ _ h
  · exact h

/-- A host write keeps the buffer within P_BUF_SIZE bytes. -/
theorem hostWrite_inRange (addr : Addr) (v : Byte) (s : State) (h : bufInRange s.params s.buf = true) :
    bufInRange (hostWrite addr v s).params (hostWrite addr v s).buf = true := by
  unfold hostWrite
  split
  · rename_i ha
    exact bufInRange_write _ _ _ _ h ha
  · exact h

/-- A host read writes no byte. -/
theorem hostRead_buf (addr : Addr) (s : State) : (hostRead addr s).2.buf = s.buf := by
  unfold hostRead
  split <;> rfl

/-- A write of one buffer byte keeps the canonical form. -/
theorem State.writeBuf_wf (s : State) (i : Nat) (v : Byte) (h : s.buf.wf = true) :
    (s.writeBuf i v).buf.wf = true :=
  Memory.wf_write _ _ _ h

/-- The memory of the state after reset is in the canonical form. -/
theorem reset_buf_wf : State.reset.buf.wf = true := rfl

theorem State.bufByte_writeBuf (s : State) (i j : Nat) (v : Byte) :
    (s.writeBuf i v).bufByte j = if j = i then some v else s.bufByte j := by
  simp [State.writeBuf, State.bufByte, Memory.read_write, bufAddr]

@[simp] theorem State.bufByte_answered (s : State) (fs : List Frame) (j : Nat) :
    (s.answered fs).bufByte j = s.bufByte j := rfl

end Sys2Proof.Machine
end

