-- ==== Sys2Proof/Laws/Block.lean ====
section
/-! SUPPORT. The loop of BLOCK (42_bus.md R130): what it does when every byte has been set, and where it
faults when one has not. -/

namespace Sys2Proof.Machine

theorem readByteDone_congr {s t : State} (hp : t.params = s.params)
    (ha : ∀ k, t.answer k = s.answer k) (d : Byte) (fs : List Frame) :
    ReadByteDone t d fs ↔ ReadByteDone s d fs := by
  simp [ReadByteDone, waited_congr hp ha, hp, ha]

theorem touchByteDone_congr {s t : State} (hp : t.params = s.params)
    (ha : ∀ k, t.answer k = s.answer k) (v b : Byte) (fs : List Frame) :
    TouchByteDone t v b fs ↔ TouchByteDone s v b fs := by
  simp [TouchByteDone, readByteDone_congr hp ha, waited_congr hp ha, hp]

/-- Bytes stored one after another from index i on. -/
def bufWrites (m : Memory) (i : Nat) : List Byte → Memory
  | [] => m
  | b :: bs => bufWrites (m.write (bufAddr i) b) (i + 1) bs

/-- The bytes BLOCK stores keep the canonical form. -/
theorem bufWrites_wf (m : Memory) (i : Nat) (bs : List Byte) (h : m.wf = true) :
    (bufWrites m i bs).wf = true := by
  induction bs generalizing m i with
  | nil => exact h
  | cons b bs ih => exact ih _ _ (Memory.wf_write m _ b h)

theorem bufWrites_read (m : Memory) (i : Nat) (bs : List Byte) (a : Nat) :
    (bufWrites m i bs).read a =
      if bufAddr i ≤ a ∧ a < bufAddr i + bs.length then bs[a - bufAddr i]? else m.read a := by
  induction bs generalizing m i with
  | nil => simp [bufWrites]
  | cons b bs ih =>
    have hn : bufAddr (i + 1) = bufAddr i + 1 := rfl
    rw [bufWrites, ih, Memory.read_write, hn, List.length_cons]
    by_cases h : a = bufAddr i
    · rw [if_neg (by omega), if_pos h, if_pos (by omega), h, Nat.sub_self]
      rfl
    · by_cases h2 : bufAddr i + 1 ≤ a ∧ a < bufAddr i + 1 + bs.length
      · rw [if_pos h2, if_pos (by omega), show a - bufAddr i = (a - (bufAddr i + 1)) + 1 by omega,
          List.getElem?_cons_succ]
      · rw [if_neg h2, if_neg h, if_neg (by omega)]

/-- Every byte has been set: the loop completes, byte after byte. -/
theorem blockLoop_spec (left i : Nat) (s : State)
    (h : ∀ j < left, (s.bufByte (i + j)).isSome = true) :
    ∃ (bs : List Byte) (fss : List (List Frame)), bs.length = left ∧ fss.length = left ∧
      blockLoop left i s = .ok ((s.answered fss.flatten).setBuf (bufWrites s.buf i bs)) ∧
      ∀ j b fs, bs[j]? = some b → fss[j]? = some fs → ∃ v, s.bufByte (i + j) = some v ∧
        TouchByteDone (s.answered (fss.take j).flatten) v b fs := by
  induction left generalizing i s with
  | zero => exact ⟨[], [], rfl, rfl, by simp [blockLoop, bufWrites, State.setBuf], by simp⟩
  | succ left ih =>
    obtain ⟨v, hv⟩ := Option.isSome_iff_exists.mp (h 0 (by omega))
    rw [Nat.add_zero] at hv
    obtain ⟨b, fs, hd, he⟩ := touchByteSeq_spec v s
    have hset : ∀ j < left, (((s.answered fs).writeBuf i b).bufByte (i + 1 + j)).isSome = true := by
      intro j hj
      rw [State.bufByte_writeBuf, if_neg (by omega)]
      have := h (j + 1) (by omega)
      rwa [show i + (j + 1) = i + 1 + j by omega] at this
    obtain ⟨bs, fss, hb, hf, hl, hall⟩ := ih (i + 1) _ hset
    refine ⟨b :: bs, fs :: fss, by simp [hb], by simp [hf], ?_, ?_⟩
    · simp only [blockLoop, hv, he, hl, bufWrites, List.flatten_cons, ← State.answered_answered]
      rfl
    · intro j b' fs' h1 h2
      cases j with
      | zero =>
        simp only [List.getElem?_cons_zero, Option.some.injEq] at h1 h2
        subst h1 h2
        exact ⟨v, by simpa using hv, by simpa using hd⟩
      | succ j =>
        simp only [List.getElem?_cons_succ] at h1 h2
        obtain ⟨v', hv', hd'⟩ := hall j b' fs' h1 h2
        refine ⟨v', ?_, ?_⟩
        · rw [State.bufByte_writeBuf, if_neg (by omega)] at hv'
          rw [← hv', show i + (j + 1) = i + 1 + j by omega]
          rfl
        · rw [List.take_succ_cons, List.flatten_cons, ← State.answered_answered]
          exact (touchByteDone_congr rfl (fun _ => rfl) _ _ _).mp hd'

/-- A byte has not been set: the loop faults at the first such byte. -/
theorem blockLoop_fault (left i : Nat) (s : State) (h : ∃ j < left, s.bufByte (i + j) = none) :
    ∃ k, blockLoop left i s = .error (.bufByteUnset k) ∧ i ≤ k ∧ k < i + left ∧
      s.bufByte k = none ∧ ∀ j, i ≤ j → j < k → (s.bufByte j).isSome = true := by
  induction left generalizing i s with
  | zero => obtain ⟨j, hj, -⟩ := h; omega
  | succ left ih =>
    cases hv : s.bufByte i with
    | none => exact ⟨i, by simp [blockLoop, hv], le_refl i, by omega, hv, by intro j h1 h2; omega⟩
    | some v =>
      obtain ⟨b, fs, -, he⟩ := touchByteSeq_spec v s
      obtain ⟨j, hj, hn⟩ := h
      have hj0 : j ≠ 0 := by
        rintro rfl
        rw [Nat.add_zero, hv] at hn
        cases hn
      obtain ⟨k, hk, h1, h2, h3, h4⟩ := ih (i + 1) ((s.answered fs).writeBuf i b)
        ⟨j - 1, by omega, by
          rw [State.bufByte_writeBuf, if_neg (by omega), show i + 1 + (j - 1) = i + j by omega]
          exact hn⟩
      refine ⟨k, by simp only [blockLoop, hv, he, hk], by omega, by omega, ?_, ?_⟩
      · rw [State.bufByte_writeBuf, if_neg (by omega)] at h3
        exact h3
      · intro j' h5 h6
        by_cases hj' : j' = i
        · rw [hj', hv]; rfl
        · have := h4 j' (by omega) h6
          rw [State.bufByte_writeBuf, if_neg hj'] at this
          exact this

end Sys2Proof.Machine
end

