-- ==== Sys2Proof/Laws/Dispatch.lean ====
section
/-! SUPPORT. Each arm of `exec`, one equation per instruction. -/

namespace Sys2Proof.Machine

variable (s : State)

@[simp] theorem exec_bridgeReset : exec .bridgeReset s = execBridgeReset s := rfl
@[simp] theorem exec_detect : exec .detect s = execDetect s := rfl
@[simp] theorem exec_writeConfig (c : BitVec 4) : exec (.writeConfig c) s = execWriteConfig c s := rfl
@[simp] theorem exec_busReset : exec .busReset s = execBusReset s := rfl
@[simp] theorem exec_touchBit (b : Bool) : exec (.touchBit b) s = execTouchBit b s := rfl
@[simp] theorem exec_writeBit (b : Bool) : exec (.writeBit b) s = execWriteBit b s := rfl
@[simp] theorem exec_readBit : exec .readBit s = execReadBit s := rfl
@[simp] theorem exec_writeByte (v : Byte) : exec (.writeByte v) s = execWriteByte v s := rfl
@[simp] theorem exec_readByte : exec .readByte s = execReadByte s := rfl
@[simp] theorem exec_touchByte (v : Byte) : exec (.touchByte v) s = execTouchByte v s := rfl
@[simp] theorem exec_block (n : BitVec 9) : exec (.block n) s = execBlock n s := rfl
@[simp] theorem exec_setLevel (l : Level) : exec (.setLevel l) s = execSetLevel l s := rfl
@[simp] theorem exec_writeBitPower (b : Bool) : exec (.writeBitPower b) s = execWriteBitPower b s := rfl
@[simp] theorem exec_writeBytePower (v : Byte) : exec (.writeBytePower v) s = execWriteBytePower v s := rfl
@[simp] theorem exec_crcClear : exec .crcClear s = execCrcClear s := rfl
@[simp] theorem exec_crcUpdate (v : Byte) : exec (.crcUpdate v) s = execCrcUpdate v s := rfl
@[simp] theorem exec_searchFirst : exec .searchFirst s = execSearchFirst s := rfl
@[simp] theorem exec_searchNext : exec .searchNext s = execSearchNext s := rfl
@[simp] theorem exec_alarmFirst : exec .alarmFirst s = execAlarmFirst s := rfl
@[simp] theorem exec_alarmNext : exec .alarmNext s = execAlarmNext s := rfl
@[simp] theorem exec_triplet (d : Bool) : exec (.triplet d) s = execTriplet d s := rfl
@[simp] theorem exec_bridgeDeviceReset : exec .bridgeDeviceReset s = execBridgeDeviceReset s := rfl
@[simp] theorem exec_bridgeWriteConfig (c : BitVec 4) : exec (.bridgeWriteConfig c) s = execBridgeWriteConfig c s := rfl
@[simp] theorem exec_bridgeBusReset : exec .bridgeBusReset s = execBridgeBusReset s := rfl
@[simp] theorem exec_bridgeSingleBit (b : Bool) : exec (.bridgeSingleBit b) s = execBridgeSingleBit b s := rfl
@[simp] theorem exec_bridgeWriteByte (v : Byte) : exec (.bridgeWriteByte v) s = execBridgeWriteByte v s := rfl
@[simp] theorem exec_bridgeReadByte : exec .bridgeReadByte s = execBridgeReadByte s := rfl
@[simp] theorem exec_bridgeSetReadPointer : exec .bridgeSetReadPointer s = execBridgeSetReadPointer s := rfl
@[simp] theorem exec_bridgeTriplet (d : Bool) : exec (.bridgeTriplet d) s = execBridgeTriplet d s := rfl
@[simp] theorem exec_bridgeWriteByteWithPower : exec .bridgeWriteByteWithPower s = execBridgeWriteByteWithPower s := rfl

end Sys2Proof.Machine
end

