-- ==== Sys2Proof/Laws/Operands.lean ====
section
/-! SUPPORT. The fields of a request word and the operand forms, read back from what they are made of. -/

namespace Sys2Proof.Machine

@[simp] theorem opField_requestWord (op arg : Byte) (len : BitVec 9) :
    opField (requestWord op arg len) = op := by
  unfold opField requestWord
  ext i hi
  rw [BitVec.getElem_extractLsb']
  grind

@[simp] theorem argField_requestWord (op arg : Byte) (len : BitVec 9) :
    argField (requestWord op arg len) = arg := by
  unfold argField requestWord
  ext i hi
  rw [BitVec.getElem_extractLsb']
  grind

@[simp] theorem lenField_requestWord (op arg : Byte) (len : BitVec 9) :
    lenField (requestWord op arg len) = len := by
  unfold lenField requestWord
  ext i hi
  rw [BitVec.getElem_extractLsb']
  grind

@[simp] theorem rsvField_requestWord (op arg : Byte) (len : BitVec 9) :
    rsvField (requestWord op arg len) = 0 := by
  unfold rsvField requestWord
  ext i hi
  rw [BitVec.getElem_extractLsb']
  grind

/-- A word with RSV = 0 is made of its other fields. -/
theorem requestWord_fields {req : Word} (h : rsvField req = 0) :
    requestWord (opField req) (argField req) (lenField req) = req := by
  have hr : ∀ i < 7, req.getLsbD (25 + i) = false := by
    intro i hi
    have := congrArg (fun v => BitVec.getLsbD v i) h
    simpa [rsvField, hi] using this
  unfold requestWord opField argField lenField
  ext i hi
  have := hr (i - 25)
  grind

@[simp] theorem bitOperand_bitByte (b : Bool) : bitOperand (bitByte b) = some b := by
  cases b <;> decide

@[simp] theorem nibbleOperand_zeroExtend (c : BitVec 4) :
    nibbleOperand (c.zeroExtend 8) = some c := by
  revert c; decide

@[simp] theorem levelOperand_levelByte (l : Level) : levelOperand (levelByte l) = some l := by
  cases l <;> decide

@[simp] theorem bitOfArg_bitArg (b : Bool) : bitOfArg (bitArg b) = some b := by
  cases b <;> decide

@[simp] theorem configOfArg_wcfg (c : BitVec 4) : configOfArg (wcfg c) = some c := by
  revert c; decide

theorem bitByte_of_bitOperand {arg : Byte} {b : Bool} (h : bitOperand arg = some b) :
    bitByte b = arg := by
  revert arg b; decide

theorem zeroExtend_of_nibbleOperand {arg : Byte} {c : BitVec 4} (h : nibbleOperand arg = some c) :
    c.zeroExtend 8 = arg := by
  revert arg c; decide

theorem levelByte_of_levelOperand {arg : Byte} {l : Level} (h : levelOperand arg = some l) :
    levelByte l = arg := by
  unfold levelOperand at h
  split at h
  · cases h; simp_all [levelByte]
  · split at h
    · cases h; simp_all [levelByte]
    · cases h

theorem bitArg_of_bitOfArg {arg : Byte} {b : Bool} (h : bitOfArg arg = some b) : bitArg b = arg := by
  revert arg b; decide

theorem wcfg_of_configOfArg {arg : Byte} {c : BitVec 4} (h : configOfArg arg = some c) :
    wcfg c = arg := by
  revert arg c; decide

end Sys2Proof.Machine
end

