-- ==== Sys2Proof/Laws/Operate.lean ====
section
/-! SUPPORT. Acceptance and completion (41_bridge.md R100, R101): an operation's procedures see the
accepted state as they see the state before it, and its end is a `completed` state. -/

namespace Sys2Proof.Machine

@[simp] theorem accept_params (s : State) : (accept s).params = s.params := rfl
@[simp] theorem accept_cfg (s : State) : (accept s).cfg = s.cfg := rfl
@[simp] theorem accept_ld (s : State) : (accept s).ld = s.ld := rfl
@[simp] theorem accept_lfd (s : State) : (accept s).lfd = s.lfd := rfl
@[simp] theorem accept_ldf (s : State) : (accept s).ldf = s.ldf := rfl
@[simp] theorem accept_crc8 (s : State) : (accept s).crc8 = s.crc8 := rfl
@[simp] theorem accept_buf (s : State) : (accept s).buf = s.buf := rfl
@[simp] theorem accept_bufByte (s : State) (i : Nat) : (accept s).bufByte i = s.bufByte i := rfl
@[simp] theorem accept_romBit (s : State) (p : Nat) : (accept s).romBit p = s.romBit p := rfl
@[simp] theorem accept_answer (s : State) (k : Nat) : (accept s).answer k = s.answer k := rfl

@[simp] theorem waited_accept (s : State) (cmd : Byte) (arg : Option Byte) (S : Byte)
    (fs : List Frame) : Waited (accept s) cmd arg S fs ↔ Waited s cmd arg S fs := Iff.rfl

@[simp] theorem waited_accept_answered (s : State) (gs : List Frame) (cmd : Byte) (arg : Option Byte)
    (S : Byte) (fs : List Frame) :
    Waited ((accept s).answered gs) cmd arg S fs ↔ Waited (s.answered gs) cmd arg S fs := Iff.rfl

@[simp] theorem readByteDone_accept (s : State) (d : Byte) (fs : List Frame) :
    ReadByteDone (accept s) d fs ↔ ReadByteDone s d fs := Iff.rfl

@[simp] theorem touchByteDone_accept_answered (s : State) (gs : List Frame) (v b : Byte)
    (fs : List Frame) :
    TouchByteDone ((accept s).answered gs) v b fs ↔ TouchByteDone (s.answered gs) v b fs := Iff.rfl

@[simp] theorem configWritten_accept (s : State) (c : BitVec 4) (ok : Bool) (fs : List Frame) :
    ConfigWritten (accept s) c ok fs ↔ ConfigWritten s c ok fs := Iff.rfl

@[simp] theorem configWritten_accept_answered (s : State) (gs : List Frame) (c : BitVec 4) (ok : Bool)
    (fs : List Frame) :
    ConfigWritten ((accept s).answered gs) c ok fs ↔ ConfigWritten (s.answered gs) c ok fs := Iff.rfl

/-- Completion of an operation that left HSR as acceptance set it: HSR is 0x00. -/
theorem complete_eq {v : Byte} {t : State} (h : t.hsr = hsrAccepted) :
    complete v t = { t with result := v, hsr := 0x00 } := by
  have hc : hsrCompleted hsrAccepted = 0x00 := by decide
  simp only [complete, State.setResult_hsr, h, hc]
  rfl

/-- An operation, from what its pseudocode does on the accepted state. -/
theorem operate_of_eq {body : State → Byte × State} {s t : State} {v : Byte}
    (h : body (accept s) = (v, t)) : operate body s = .next (complete v t) := by
  simp only [operate, h]

/-- An operation whose pseudocode issues frames and writes no register. -/
theorem operate_answered {body : State → Byte × State} {s : State} {v : Byte} {fs : List Frame}
    (h : body (accept s) = (v, (accept s).answered fs)) :
    operate body s = .next (completed s fs v) := by
  rw [operate_of_eq h, complete_eq rfl]
  rfl

/-- An operation whose pseudocode issues frames and writes CFG. -/
theorem operate_setCfg {body : State → Byte × State} {s : State} {v : Byte} {fs : List Frame}
    {c : BitVec 4} (h : body (accept s) = (v, ((accept s).answered fs).setCfg c)) :
    operate body s = .next { completed s fs v with cfg := c } := by
  rw [operate_of_eq h, complete_eq rfl]
  rfl

end Sys2Proof.Machine
end

