-- ==== Sys2Proof/Laws/Rom.lean ====
section
/-! SUPPORT. The identifier buffer bit by bit: a bit position's place in its byte, and what a write of
one bit does to every bit and byte. -/

namespace Sys2Proof.Machine

/-- The bit of ROM at position p has been written. -/
def State.romBitSet (s : State) (p : Nat) : Bool := (s.romSetByte (romIndex p) &&& romMask p) != 0

/-- Testing a byte under a one-bit mask reads that bit. -/
theorem and_mask_ne_zero (x : Byte) (k : Nat) (hk : k < 8) :
    ((x &&& (1#8 <<< k)) != 0) = x.getLsbD k := by
  revert x
  interval_cases k <;> decide

theorem or_mask_getLsbD (x : Byte) (k j : Nat) (hj : j < 8) :
    (x ||| (1#8 <<< k)).getLsbD j = if j = k then true else x.getLsbD j := by
  simp [hj]
  grind

theorem and_not_mask_getLsbD (x : Byte) (k j : Nat) (hj : j < 8) :
    (x &&& ~~~(1#8 <<< k)).getLsbD j = if j = k then false else x.getLsbD j := by
  simp [hj]
  grind

theorem maskedWrite_getLsbD (x : Byte) (k j : Nat) (b : Bool) (hj : j < 8) :
    (maskedWrite x (1#8 <<< k) b).getLsbD j = if j = k then b else x.getLsbD j := by
  cases b
  · simp only [maskedWrite, Bool.false_eq_true, if_false, and_not_mask_getLsbD x k j hj]
  · simp only [maskedWrite, if_true, or_mask_getLsbD x k j hj]

theorem getD_setIfInBounds (v : Vector Byte 8) (i j : Nat) (x : Byte) (hi : i < 8) :
    (v.setIfInBounds i x).getD j 0 = if j = i then x else v.getD j 0 := by
  simp [Vector.getD]
  grind

theorem State.romBit_eq (s : State) (p : Nat) :
    s.romBit p = (s.romByte (romIndex p)).getLsbD ((p - 1) % 8) :=
  and_mask_ne_zero _ _ (Nat.mod_lt _ (by omega))

theorem State.romBitSet_eq (s : State) (p : Nat) :
    s.romBitSet p = (s.romSetByte (romIndex p)).getLsbD ((p - 1) % 8) :=
  and_mask_ne_zero _ _ (Nat.mod_lt _ (by omega))

theorem romIndex_lt {p : Nat} (h : p ≤ 64) : romIndex p < 8 := by
  unfold romIndex
  omega

/-- A byte of ROM after a write of one bit. -/
theorem State.romByte_writeRomBit (s : State) (p i : Nat) (b : Bool) (hp : p ≤ 64) :
    (s.writeRomBit p b).romByte i =
      if i = romIndex p then maskedWrite (s.romByte i) (romMask p) b else s.romByte i := by
  simp only [State.writeRomBit, State.romByte, State.setRom_rom,
    getD_setIfInBounds _ _ _ _ (romIndex_lt hp)]
  split
  · rename_i h
    rw [h]
  · rfl

theorem State.romSetByte_writeRomBit (s : State) (p i : Nat) (b : Bool) (hp : p ≤ 64) :
    (s.writeRomBit p b).romSetByte i =
      if i = romIndex p then s.romSetByte i ||| romMask p else s.romSetByte i := by
  simp only [State.writeRomBit, State.romSetByte, State.setRom_romSet,
    getD_setIfInBounds _ _ _ _ (romIndex_lt hp)]
  split
  · rename_i h
    rw [h]
  · rfl

/-- Two positions in the same byte, at the same place in it, are the same. -/
theorem eq_of_romIndex {p q : Nat} (hp : 1 ≤ p) (hq : 1 ≤ q) (hi : romIndex q = romIndex p)
    (hm : (q - 1) % 8 = (p - 1) % 8) : q = p := by
  unfold romIndex at hi
  omega

/-- A bit of ROM after a write of one bit. -/
theorem State.romBit_writeRomBit (s : State) (p q : Nat) (b : Bool) (hp1 : 1 ≤ p) (hp : p ≤ 64)
    (hq : 1 ≤ q) : (s.writeRomBit p b).romBit q = if q = p then b else s.romBit q := by
  rw [State.romBit_eq, State.romBit_eq, State.romByte_writeRomBit _ _ _ _ hp]
  by_cases hi : romIndex q = romIndex p
  · rw [if_pos hi, romMask, maskedWrite_getLsbD _ _ _ _ (Nat.mod_lt _ (by omega))]
    by_cases h : q = p
    · rw [if_pos h, if_pos (by rw [h])]
    · rw [if_neg h, if_neg fun hm => h (eq_of_romIndex hp1 hq hi hm)]
  · rw [if_neg hi, if_neg (by rintro rfl; exact hi rfl)]

theorem State.romBitSet_writeRomBit (s : State) (p q : Nat) (b : Bool) (hp1 : 1 ≤ p) (hp : p ≤ 64)
    (hq : 1 ≤ q) : (s.writeRomBit p b).romBitSet q = if q = p then true else s.romBitSet q := by
  rw [State.romBitSet_eq, State.romBitSet_eq, State.romSetByte_writeRomBit _ _ _ _ hp]
  by_cases hi : romIndex q = romIndex p
  · rw [if_pos hi, romMask, or_mask_getLsbD _ _ _ (Nat.mod_lt _ (by omega))]
    by_cases h : q = p
    · rw [if_pos h, if_pos (by rw [h])]
    · rw [if_neg h, if_neg fun hm => h (eq_of_romIndex hp1 hq hi hm)]
  · rw [if_neg hi, if_neg (by rintro rfl; exact hi rfl)]

/-- A byte of ROM, bit by bit. -/
theorem State.romByte_getLsbD (s : State) (i k : Nat) (hk : k < 8) :
    (s.romByte i).getLsbD k = s.romBit (8 * i + k + 1) := by
  rw [State.romBit_eq]
  have h1 : romIndex (8 * i + k + 1) = i := by unfold romIndex; omega
  have h2 : (8 * i + k + 1 - 1) % 8 = k := by omega
  rw [h1, h2]

/-- A byte of the written-bits record is 0xFF when all its bits are set. -/
theorem State.romSetByte_eq_ones (s : State) (i : Nat)
    (h : ∀ k < 8, s.romBitSet (8 * i + k + 1) = true) : s.romSetByte i = 0xFF := by
  apply BitVec.eq_of_getLsbD_eq
  intro k hk
  have := h k hk
  rw [State.romBitSet_eq] at this
  have h1 : romIndex (8 * i + k + 1) = i := by unfold romIndex; omega
  have h2 : (8 * i + k + 1 - 1) % 8 = k := by omega
  rw [h1, h2] at this
  rw [this]
  interval_cases k <;> rfl

/-- ROM as the list of its bytes. -/
theorem State.rom_toList (s : State) : s.rom.toList = (List.range 8).map s.romByte := by
  apply List.ext_getElem
  · simp
  · intro i h1 h2
    have hi : i < 8 := by simpa using h1
    simp [State.romByte, Vector.getD, hi]

/-- Folding a byte after others. -/
theorem crcFold_append (c : Byte) (xs ys : List Byte) :
    crcFold c (xs ++ ys) = crcFold (crcFold c xs) ys := by
  induction xs generalizing c with
  | nil => rfl
  | cons x xs ih => exact ih _

end Sys2Proof.Machine
end

