-- ==== Sys2Proof/Laws/Search.lean ====
section
/-! SUPPORT. The pass (44_search.md R150), one bit position at a time. -/

namespace Sys2Proof.Machine

/-- The cursor after the triplet answered S (44_search.md R155). -/
def Cursor.probed (c : Cursor) (S : Byte) : Cursor :=
  { c with idBit := stSingleBit S, cmpIdBit := stTripletSecond S, searchDirection := stDirection S }

/-- The cursor at the next position (44_search.md R154, R156). -/
def Cursor.advanced (c : Cursor) (S : Byte) : Cursor :=
  { c.probed S with
    idBitNumber := c.idBitNumber + 1
    lastZero := if tookZeroBranch S then c.idBitNumber else c.lastZero }

/-- What position p leaves in the state when the triplet answered S: LFD, the ROM bit, and the CRC at the
end of a byte (44_search.md R154, R156). -/
def bitTaken (p : Nat) (S : Byte) (s : State) : State :=
  let s1 := if tookZeroBranch S ∧ p ≤ 8 then s.setLfd (BitVec.ofNat 4 p) else s
  let s2 := s1.writeRomBit p (stDirection S)
  if p % 8 = 0 then s2.setCrc8 (crcEntry (s2.crc8 ^^^ s2.romByte (romIndex p))) else s2

theorem steer_eq_steering (s : State) (p : Nat) : steer s p = steering s p := by
  unfold steer steering
  split
  · rfl
  · rw [beq_eq_decide]

/-- One turn of the loop, the triplet being answered S by the frames fs. -/
theorem searchLoop_succ (left : Nat) (c : Cursor) (s : State) {S : Byte} {fs : List Frame}
    (h : Waited s s.params.cmd1wt (some (bitArg (steering s c.idBitNumber))) S fs) :
    searchLoop (left + 1) c s =
      if noneResponded S then (c.probed S, s.answered fs)
      else searchLoop left (c.advanced S) (bitTaken c.idBitNumber S (s.answered fs)) := by
  have hp : probeBit c s = (c.probed S, s.answered fs) := by
    simp only [probeBit, tripletSeq, steer_eq_steering, commandWait_eq h]
    rfl
  simp only [searchLoop, hp]
  have hr : ((c.probed S).idBit && (c.probed S).cmpIdBit) = noneResponded S := rfl
  have hz : (c.probed S).zeroBranch = tookZeroBranch S := rfl
  rw [hr]
  by_cases hn : noneResponded S = true
  · rw [if_pos hn, if_pos hn]
  · rw [if_neg hn, if_neg hn]
    simp only [recordDiscrepancy, hz, assembleBit, bitTaken, Cursor.advanced, crcStep]
    cases hb : tookZeroBranch S
    · simp only [Bool.false_eq_true, if_false, false_and]
      rfl
    · simp only [if_true, true_and]
      rfl

/-- What the pass writes at one position: LFD, CRC8 and ROM only. -/
theorem bitTaken_eq (p : Nat) (S : Byte) (s : State) :
    bitTaken p S s =
      { s with
        lfd := if tookZeroBranch S ∧ p ≤ 8 then BitVec.ofNat 4 p else s.lfd
        crc8 := (bitTaken p S s).crc8
        rom := (s.writeRomBit p (stDirection S)).rom
        romSet := (s.writeRomBit p (stDirection S)).romSet } := by
  unfold bitTaken
  by_cases h1 : tookZeroBranch S = true ∧ p ≤ 8 <;> by_cases h2 : p % 8 = 0 <;>
    simp only [h1, h2, if_true, if_false] <;> rfl

theorem bitTaken_answered (p : Nat) (S : Byte) (s : State) (fs : List Frame) :
    bitTaken p S (s.answered fs) = (bitTaken p S s).answered fs := by
  unfold bitTaken
  by_cases h1 : tookZeroBranch S = true ∧ p ≤ 8 <;> by_cases h2 : p % 8 = 0 <;>
    simp only [h1, h2, if_true, if_false] <;> rfl

theorem bitTaken_lfd (p : Nat) (S : Byte) (s : State) :
    (bitTaken p S s).lfd = if tookZeroBranch S ∧ p ≤ 8 then BitVec.ofNat 4 p else s.lfd := by
  rw [bitTaken_eq]

theorem bitTaken_romByte (p i : Nat) (S : Byte) (s : State) :
    (bitTaken p S s).romByte i = (s.writeRomBit p (stDirection S)).romByte i := by
  rw [bitTaken_eq]
  rfl

theorem bitTaken_romBit {p q : Nat} (S : Byte) (s : State) (hp1 : 1 ≤ p) (hp : p ≤ 64) (hq : 1 ≤ q) :
    (bitTaken p S s).romBit q = if q = p then stDirection S else s.romBit q := by
  rw [← State.romBit_writeRomBit s p q _ hp1 hp hq, bitTaken_eq]
  rfl

theorem bitTaken_romBitSet {p q : Nat} (S : Byte) (s : State) (hp1 : 1 ≤ p) (hp : p ≤ 64)
    (hq : 1 ≤ q) : (bitTaken p S s).romBitSet q = if q = p then true else s.romBitSet q := by
  rw [← State.romBitSet_writeRomBit s p q (stDirection S) hp1 hp hq, bitTaken_eq]
  rfl

theorem bitTaken_crc8 (p : Nat) (S : Byte) (s : State) :
    (bitTaken p S s).crc8 =
      if p % 8 = 0 then crcEntry (s.crc8 ^^^ (bitTaken p S s).romByte (romIndex p)) else s.crc8 := by
  unfold bitTaken
  by_cases h1 : tookZeroBranch S = true ∧ p ≤ 8 <;> by_cases h2 : p % 8 = 0 <;>
    simp only [h1, h2, if_true, if_false] <;> rfl

/-- CRC8 is the fold of the ROM bytes wholly before position p. -/
def CrcBefore (s : State) (p : Nat) : Prop :=
  s.crc8 = crcFold 0x00 ((List.range ((p - 1) / 8)).map s.romByte)

theorem crcBefore_bitTaken {p : Nat} (S : Byte) (s : State) (hp1 : 1 ≤ p) (hp : p ≤ 64)
    (h : CrcBefore s p) : CrcBefore (bitTaken p S s) (p + 1) := by
  have hsame : (List.range ((p - 1) / 8)).map (bitTaken p S s).romByte =
      (List.range ((p - 1) / 8)).map s.romByte := by
    apply List.map_congr_left
    intro i hi
    have hi' : i < (p - 1) / 8 := by simpa using hi
    rw [bitTaken_romByte, State.romByte_writeRomBit _ _ _ _ hp, if_neg (by unfold romIndex; omega)]
  unfold CrcBefore at *
  rw [bitTaken_crc8, h]
  by_cases h8 : p % 8 = 0
  · rw [if_pos h8, show (p + 1 - 1) / 8 = (p - 1) / 8 + 1 by omega, List.range_succ, List.map_append,
      crcFold_append, hsame]
    rfl
  · rw [if_neg h8, show (p + 1 - 1) / 8 = (p - 1) / 8 by omega, hsame]

/-- From s, frames fs have been issued, and nothing else has changed but LFD, CRC8 and ROM. -/
def PassFrom (s : State) (fs : List Frame) (t : State) : Prop :=
  t = { s.answered fs with lfd := t.lfd, crc8 := t.crc8, rom := t.rom, romSet := t.romSet }

theorem PassFrom.refl (s : State) : PassFrom s [] s := by
  unfold PassFrom
  rw [State.answered_nil]

theorem PassFrom.trans {s t u : State} {fs gs : List Frame} (h : PassFrom s fs t)
    (h' : PassFrom t gs u) : PassFrom s (fs ++ gs) u := by
  unfold PassFrom at *
  rw [← State.answered_answered]
  rw [h] at h'
  rw [h']
  rfl

theorem passFrom_bitTaken (p : Nat) (S : Byte) (s : State) (fs : List Frame) :
    PassFrom s fs (bitTaken p S (s.answered fs)) := by
  unfold PassFrom bitTaken
  by_cases h1 : tookZeroBranch S = true ∧ p ≤ 8 <;> by_cases h2 : p % 8 = 0 <;>
    simp only [h1, h2, if_true, if_false] <;> rfl

theorem PassFrom.ld {s t : State} {fs : List Frame} (h : PassFrom s fs t) : t.ld = s.ld := by
  rw [h]; rfl

theorem PassFrom.params {s t : State} {fs : List Frame} (h : PassFrom s fs t) :
    t.params = s.params := by
  rw [h]; rfl

theorem PassFrom.answer {s t : State} {fs : List Frame} (h : PassFrom s fs t) (k : Nat) :
    t.answer k = s.answer (fs.length + k) := by
  rw [← State.answer_answered]
  exact State.answer_congr (by rw [h]) (by rw [h]) k

/-- The frame a triplet waits on is one the block may send, and so are its re-reads and recovery. -/
theorem legalFrame_waited {s : State} {cmd : Byte} {arg : Option Byte} {S : Byte} {fs : List Frame}
    (h : Waited s cmd arg S fs) (hl : ∀ r, LegalFrame s.params (.txn cmd arg r)) :
    ∀ f ∈ fs, LegalFrame s.params f := by
  have hpoll : ∀ k, ∀ f ∈ pollFrames s cmd arg k, LegalFrame s.params f := by
    intro k f hf
    simp only [pollFrames, List.mem_cons, List.mem_map, List.mem_range] at hf
    rcases hf with rfl | ⟨j, -, rfl⟩
    · exact hl _
    · trivial
  rcases h with ⟨k, -, -, -, -, rfl⟩ | ⟨-, -, rfl⟩
  · exact hpoll k
  · intro f hf
    rw [List.mem_append, List.mem_singleton] at hf
    rcases hf with hf | rfl
    · exact hpoll _ f hf
    · exact .inl rfl

theorem legalFrame_bitArg (P : Params) (b : Bool) (r : Byte) :
    LegalFrame P (.txn P.cmd1wt (some (bitArg b)) r) := by
  cases b <;> simp [LegalFrame, bitArg]

/-- The loop on any bridge: which fields it writes, how many frames it issues and of which kind, and where
its cursor can end. -/
theorem searchLoop_spec (left : Nat) (c : Cursor) (s : State) (h1 : 1 ≤ c.idBitNumber)
    (hl : c.idBitNumber + left ≤ 65) (hcrc : CrcBefore s c.idBitNumber) :
    ∃ fs, PassFrom s fs (searchLoop left c s).2 ∧ fs.length ≤ left * (s.params.pollLimit + 2) ∧
      (∀ f ∈ fs, LegalFrame s.params f) ∧
      (∀ k f, fs[k]? = some f → f.reply = s.answer k) ∧
      c.idBitNumber ≤ (searchLoop left c s).1.idBitNumber ∧
      (searchLoop left c s).1.idBitNumber ≤ c.idBitNumber + left ∧
      ((searchLoop left c s).1.lastZero = c.lastZero ∨
        (searchLoop left c s).1.lastZero < c.idBitNumber + left) ∧
      (s.lfd.toNat ≤ 8 → (searchLoop left c s).2.lfd.toNat ≤ 8) ∧
      CrcBefore (searchLoop left c s).2 (searchLoop left c s).1.idBitNumber ∧
      ∀ q, 1 ≤ q → (s.romBitSet q = true ∨
          (c.idBitNumber ≤ q ∧ q < (searchLoop left c s).1.idBitNumber)) →
        (searchLoop left c s).2.romBitSet q = true := by
  induction left generalizing c s with
  | zero =>
    refine ⟨[], PassFrom.refl s, by simp, by simp, by simp, le_refl _, le_refl _, .inl rfl, id, hcrc, ?_⟩
    rintro q - (h | ⟨h, h'⟩)
    · exact h
    · simp only [searchLoop] at h'
      omega
  | succ left ih =>
    obtain ⟨S, fs, hw, -⟩ := commandWait_cases s.params.cmd1wt
      (some (bitArg (steering s c.idBitNumber))) s
    have hleg := legalFrame_waited hw fun r => legalFrame_bitArg s.params _ r
    have hlen := (waited_length hw).2
    rw [searchLoop_succ left c s hw]
    by_cases hn : noneResponded S = true
    · rw [if_pos hn]
      refine ⟨fs, rfl, ?_, hleg, waited_reply hw, le_refl _, Nat.le_add_right _ _, .inl rfl, id, hcrc, ?_⟩
      · calc fs.length ≤ s.params.pollLimit + 2 := hlen
          _ ≤ (left + 1) * (s.params.pollLimit + 2) := Nat.le_mul_of_pos_left _ (by omega)
      · rintro q - (h | ⟨h, h'⟩)
        · exact h
        · simp only [Cursor.probed] at h'
          omega
    · rw [if_neg hn]
      have hpass := passFrom_bitTaken c.idBitNumber S s fs
      have hcrc' : CrcBefore (bitTaken c.idBitNumber S (s.answered fs)) (c.idBitNumber + 1) :=
        crcBefore_bitTaken S _ h1 (by omega) hcrc
      have hadv : (c.advanced S).idBitNumber = c.idBitNumber + 1 := rfl
      obtain ⟨gs, hg, hgl, hgleg, hgrep, hge, hle, hz, hlfd, hc, hset⟩ :=
        ih (c.advanced S) _ (by rw [hadv]; omega) (by rw [hadv]; omega) hcrc'
      set r := searchLoop left (c.advanced S) (bitTaken c.idBitNumber S (s.answered fs)) with hr
      rw [hpass.params] at hgl hgleg
      refine ⟨fs ++ gs, hpass.trans hg, ?_, ?_, ?_, ?_, ?_, ?_, ?_, hc, ?_⟩
      · rw [List.length_append, Nat.add_mul, Nat.one_mul]
        omega
      · intro f hf
        rcases List.mem_append.mp hf with hf | hf
        · exact hleg f hf
        · exact hgleg f hf
      · intro k f hf
        by_cases hk : k < fs.length
        · rw [List.getElem?_append_left hk] at hf
          exact waited_reply hw k f hf
        · rw [List.getElem?_append_right (by omega)] at hf
          rw [hgrep _ f hf, hpass.answer]
          congr 1
          omega
      · omega
      · omega
      · rcases hz with hz | hz
        · rw [hz]
          simp only [Cursor.advanced, Cursor.probed]
          split
          · right; omega
          · left; rfl
        · right; omega
      · intro h8
        apply hlfd
        rw [bitTaken_lfd]
        split
        · rename_i h
          rw [BitVec.toNat_ofNat]
          omega
        · exact h8
      · rintro q hq h
        apply hset q hq
        rw [bitTaken_romBitSet _ _ h1 (by omega) hq]
        by_cases hqp : q = c.idBitNumber
        · left; rw [if_pos hqp]
        · rcases h with h | ⟨h, h'⟩
          · left; rw [if_neg hqp]; exact h
          · right; omega

/-- The loop of a whole pass leaves CRC8 the fold of the eight ROM bytes when it processed 64 bits. -/
theorem crc8_of_crcBefore {s : State} (h : CrcBefore s 65) : s.crc8 = crcFold 0x00 s.rom.toList := by
  rw [State.rom_toList]
  exact h

end Sys2Proof.Machine
end

