-- ==== Sys2Proof/Laws/Pass.lean ====
section
/-! SUPPORT. The pass as a whole (44_search.md R150): every way it can go, and every way it can end. -/

namespace Sys2Proof.Machine

/-- The state in which the loop of a pass starts, the bus reset having been answered S by the frames fs
and the ROM command having taken the frames gs (44_search.md R152). -/
def passStart (s : State) (S : Byte) (fs gs : List Frame) : State :=
  ((s.answered (fs ++ gs)).setShort (stShort S)).setCrc8 0x00

/-- Every way a pass can go: the LastDeviceFlag exit, no presence, or the loop (44_search.md R151,
R152). -/
theorem search_cases (rc : Byte) (s : State) :
    (s.ldf = true ∧ search rc s = (false, if s.params.ldfExitResets then searchStateReset s else s)) ∨
    (s.ldf = false ∧ ∃ S fs, Waited s s.params.cmd1wrs none S fs ∧
      ((stPresence S = false ∧
          search rc s = (false, searchStateReset ((s.answered fs).setShort (stShort S)))) ∨
       (stPresence S = true ∧ ∃ T gs, Waited (s.answered fs) s.params.cmd1wwb (some rc) T gs ∧
          search rc s = finishPass (searchLoop 64 Cursor.start (passStart s S fs gs)).1
            (searchLoop 64 Cursor.start (passStart s S fs gs)).2))) := by
  cases hl : s.ldf with
  | true => exact .inl ⟨rfl, by simp only [search, hl, if_true]⟩
  | false =>
    refine .inr ⟨rfl, ?_⟩
    obtain ⟨S, fs, hw, he⟩ := busResetSeq_spec s
    refine ⟨S, fs, hw, ?_⟩
    cases hp : stPresence S with
    | false =>
      rw [hp] at he
      exact .inl ⟨rfl, by simp only [search, hl, Bool.false_eq_true, if_false, he]⟩
    | true =>
      rw [hp] at he
      obtain ⟨T, gs, hg, he2⟩ := writeByteSeq_spec rc ((s.answered fs).setShort (stShort S))
      refine .inr ⟨rfl, T, gs, ?_, ?_⟩
      · exact (waited_congr (s := s.answered fs) rfl (fun k => by simp) _ _ _ _).mp hg
      · simp only [search, hl, Bool.false_eq_true, if_false, he, he2, State.setShort_answered,
          State.answered_answered]
        rfl

/-- A pass that does not succeed leaves the Search State reset, whichever check failed (44_search.md R157,
R159). -/
theorem searchStateReset_recordSuccess (c : Cursor) (s : State) :
    searchStateReset (recordSuccess c s) = searchStateReset s := by
  unfold recordSuccess
  dsimp only
  split <;> rfl

/-- Every way a pass can end after its loop (44_search.md R157, R159). -/
theorem finishPass_cases (c : Cursor) (s : State) :
    (c.idBitNumber = 65 ∧ s.crc8 = 0x00 ∧ s.romByte 0 ≠ 0x00 ∧
      finishPass c s = (true, recordSuccess c s)) ∨
    (¬(c.idBitNumber = 65 ∧ s.crc8 = 0x00 ∧ s.romByte 0 ≠ 0x00) ∧
      finishPass c s = (false, searchStateReset s)) := by
  have hrom : (recordSuccess c s).romByte 0 = s.romByte 0 := by
    unfold recordSuccess
    dsimp only
    split <;> rfl
  have hv : passValid c s = true ↔ c.idBitNumber = 65 ∧ s.crc8 = 0x00 := by
    simp [passValid]
  unfold finishPass
  by_cases h : passValid c s = true
  · rw [if_pos h, hrom, searchStateReset_recordSuccess]
    rw [hv] at h
    by_cases h0 : s.romByte 0 = 0x00
    · exact .inr ⟨fun hn => hn.2.2 h0, by rw [if_pos h0]⟩
    · exact .inl ⟨h.1, h.2, h0, by rw [if_neg h0]⟩
  · rw [if_neg h]
    exact .inr ⟨fun hn => h (hv.mpr ⟨hn.1, hn.2.1⟩), rfl⟩

/-- What a successful pass records (44_search.md R157). -/
theorem recordSuccess_eq (c : Cursor) (s : State) :
    recordSuccess c s =
      { s with
        ld := BitVec.ofNat 7 c.lastZero
        ldf := if c.lastZero = 0 then true else s.ldf } := by
  unfold recordSuccess
  dsimp only
  split <;> rfl

/-- What a search-state reset leaves (44_search.md R148). -/
theorem searchStateReset_eq (s : State) :
    searchStateReset s = { s with ld := 0, lfd := 0, ldf := false, crc8 := 0x00 } := rfl

/-- The loop of a pass starts with CRC8 the fold of no bytes. -/
theorem crcBefore_passStart (s : State) (S : Byte) (fs gs : List Frame) :
    CrcBefore (passStart s S fs gs) 1 := rfl


/-! ### The loop, unrolled -/

/-- The snapshot the triplet at position n + 1 gets, and the state after it, from state s. -/
def probe (s : State) (n : Nat) : Byte × State :=
  commandWait s.params.cmd1wt (some (bitArg (steering s (n + 1)))) s

/-- The state of a loop that starts in s after n bit positions, none of them the last. -/
def loopState (s : State) : Nat → State
  | 0 => s
  | n + 1 => bitTaken (n + 1) (probe (loopState s n) n).1 (probe (loopState s n) n).2

/-- The snapshot of position n + 1 in a loop that starts in s. -/
def loopSnapshot (s : State) (n : Nat) : Byte := (probe (loopState s n) n).1

/-- The cursor after n bit positions. -/
def loopCursor (s : State) : Nat → Cursor
  | 0 => Cursor.start
  | n + 1 => (loopCursor s n).advanced (loopSnapshot s n)

theorem loopCursor_idBitNumber (s : State) (n : Nat) : (loopCursor s n).idBitNumber = n + 1 := by
  induction n with
  | zero => rfl
  | succ n ih => simp only [loopCursor, Cursor.advanced, ih]

/-- The last zero-branch position among the first n. -/
theorem loopCursor_lastZero (s : State) (n : Nat) :
    (loopCursor s n).lastZero ≤ n ∧
    (0 < (loopCursor s n).lastZero →
      tookZeroBranch (loopSnapshot s ((loopCursor s n).lastZero - 1)) = true) ∧
    ∀ p, (loopCursor s n).lastZero < p → p ≤ n → tookZeroBranch (loopSnapshot s (p - 1)) = false := by
  induction n with
  | zero => exact ⟨le_refl 0, fun h => absurd h (lt_irrefl 0), fun p h1 h2 => by
      have h0 : (loopCursor s 0).lastZero = 0 := rfl
      omega⟩
  | succ n ih =>
    have hz : (loopCursor s (n + 1)).lastZero =
        if tookZeroBranch (loopSnapshot s n) then n + 1 else (loopCursor s n).lastZero := by
      simp only [loopCursor, Cursor.advanced, loopCursor_idBitNumber, Cursor.probed]
    rw [hz]
    cases hb : tookZeroBranch (loopSnapshot s n) with
    | true => exact ⟨le_refl _, fun _ => hb, fun p h1 h2 => by simp only [if_true] at h1; omega⟩
    | false =>
      obtain ⟨h1, h2, h3⟩ := ih
      refine ⟨Nat.le_succ_of_le h1, h2, fun p hp hp' => ?_⟩
      by_cases h : p = n + 1
      · rw [h]; exact hb
      · exact h3 p hp (by omega)

/-- A loop whose first n positions all had a device respond. -/
theorem searchLoop_loopState (s : State) (n left : Nat)
    (h : ∀ k < n, noneResponded (loopSnapshot s k) = false) :
    searchLoop (n + left) Cursor.start s = searchLoop left (loopCursor s n) (loopState s n) := by
  induction n generalizing left with
  | zero => rw [Nat.zero_add]; rfl
  | succ n ih =>
    rw [show n + 1 + left = n + (left + 1) by omega, ih (left + 1) fun k hk => h k (by omega)]
    obtain ⟨S, fs, hw, he⟩ := commandWait_cases (loopState s n).params.cmd1wt
      (some (bitArg (steering (loopState s n) (n + 1)))) (loopState s n)
    have hs : loopSnapshot s n = S := by
      simp only [loopSnapshot, probe, he]
    rw [searchLoop_succ left (loopCursor s n) (loopState s n)
      (S := S) (fs := fs) (by rw [loopCursor_idBitNumber]; exact hw),
      if_neg (by rw [← hs, h n (by omega)]; exact Bool.false_ne_true), loopCursor_idBitNumber]
    simp only [loopCursor, loopState, hs, probe, he]

/-- A loop in which every one of n positions had a device respond, and in which no position is left. -/
theorem searchLoop_complete (s : State) (n : Nat)
    (h : ∀ k < n, noneResponded (loopSnapshot s k) = false) :
    searchLoop n Cursor.start s = (loopCursor s n, loopState s n) :=
  searchLoop_loopState s n 0 h

/-- A loop aborted at position n + 1 (44_search.md R155). -/
theorem searchLoop_aborted (s : State) (n left : Nat)
    (h : ∀ k < n, noneResponded (loopSnapshot s k) = false)
    (hn : noneResponded (loopSnapshot s n) = true) :
    searchLoop (n + (left + 1)) Cursor.start s =
      ((loopCursor s n).probed (loopSnapshot s n), (probe (loopState s n) n).2) := by
  rw [searchLoop_loopState s n (left + 1) h]
  obtain ⟨S, fs, hw, he⟩ := commandWait_cases (loopState s n).params.cmd1wt
    (some (bitArg (steering (loopState s n) (n + 1)))) (loopState s n)
  have hs : loopSnapshot s n = S := by
    simp only [loopSnapshot, probe, he]
  rw [searchLoop_succ left (loopCursor s n) (loopState s n)
    (S := S) (fs := fs) (by rw [loopCursor_idBitNumber]; exact hw), if_pos (by rw [← hs, hn])]
  simp only [hs, probe, he]

/-- What n positions leave of ROM: the directions taken, and the old bits from position n + 1 on. -/
theorem loopState_romBit (s : State) (n q : Nat) (hn : n ≤ 64) (hq : 1 ≤ q) :
    (loopState s n).romBit q =
      if q ≤ n then stDirection (loopSnapshot s (q - 1)) else s.romBit q := by
  induction n with
  | zero => rw [if_neg (by omega)]; rfl
  | succ n ih =>
    obtain ⟨S, fs, -, he⟩ := commandWait_cases (loopState s n).params.cmd1wt
      (some (bitArg (steering (loopState s n) (n + 1)))) (loopState s n)
    have hs : loopSnapshot s n = S := by
      simp only [loopSnapshot, probe, he]
    simp only [loopState, probe, he]
    rw [bitTaken_romBit _ _ (by omega) hn hq]
    by_cases h : q = n + 1
    · rw [if_pos h, if_pos (by omega), h, Nat.add_sub_cancel, hs]
    · rw [if_neg h]
      have hr : ((loopState s n).answered fs).romBit q = (loopState s n).romBit q := rfl
      rw [hr, ih (by omega)]
      by_cases h' : q ≤ n
      · rw [if_pos h', if_pos (by omega)]
      · rw [if_neg h', if_neg (by omega)]

theorem loopState_romBitSet (s : State) (n q : Nat) (hn : n ≤ 64) (hq : 1 ≤ q) :
    (loopState s n).romBitSet q = if q ≤ n then true else s.romBitSet q := by
  induction n with
  | zero => rw [if_neg (by omega)]; rfl
  | succ n ih =>
    obtain ⟨S, fs, -, he⟩ := commandWait_cases (loopState s n).params.cmd1wt
      (some (bitArg (steering (loopState s n) (n + 1)))) (loopState s n)
    simp only [loopState, probe, he]
    rw [bitTaken_romBitSet _ _ (by omega) hn hq]
    by_cases h : q = n + 1
    · rw [if_pos h, if_pos (by omega)]
    · rw [if_neg h]
      have hr : ((loopState s n).answered fs).romBitSet q = (loopState s n).romBitSet q := rfl
      rw [hr, ih (by omega)]
      by_cases h' : q ≤ n
      · rw [if_pos h', if_pos (by omega)]
      · rw [if_neg h', if_neg (by omega)]

/-- CRC8 after n positions is the fold of the bytes completed. -/
theorem loopState_crcBefore (s : State) (n : Nat) (hn : n ≤ 64) (h : CrcBefore s 1) :
    CrcBefore (loopState s n) (n + 1) := by
  induction n with
  | zero => exact h
  | succ n ih =>
    obtain ⟨S, fs, -, he⟩ := commandWait_cases (loopState s n).params.cmd1wt
      (some (bitArg (steering (loopState s n) (n + 1)))) (loopState s n)
    simp only [loopState, probe, he]
    exact crcBefore_bitTaken S _ (by omega) hn (ih (by omega))

/-- The frames of n positions on a bridge that is never busy. -/
def idleFrames (s : State) (n : Nat) : List Frame :=
  (List.range n).map fun k =>
    .txn s.params.cmd1wt (some (bitArg (steering s (k + 1)))) (s.answer k)

/-- On a bridge that is never busy each position is one frame: its snapshot is the next answer, and its
steering is that of the state the loop began in. -/
theorem loopState_idle (s : State) (n : Nat) (hn : n ≤ 64) (h : Idle s n) :
    PassFrom s (idleFrames s n) (loopState s n) ∧
      ∀ k < n, loopSnapshot s k = s.answer k := by
  induction n with
  | zero => exact ⟨PassFrom.refl s, by simp⟩
  | succ n ih =>
    obtain ⟨hp, hk⟩ := ih (by omega) fun k hk => h k (by omega)
    have ha : (loopState s n).answer 0 = s.answer n := by
      rw [hp.answer]; simp [idleFrames]
    have hst : steering (loopState s n) (n + 1) = steering s (n + 1) := by
      unfold steering
      rw [hp.ld, loopState_romBit s n _ (by omega) (by omega), if_neg (by omega : ¬n + 1 ≤ n)]
    have he := commandWait_idle (s := loopState s n) (loopState s n).params.cmd1wt
      (some (bitArg (steering (loopState s n) (n + 1)))) (by rw [ha]; exact h n (by omega))
    have hs : loopSnapshot s n = s.answer n := by
      simp only [loopSnapshot, probe, he, ha]
    refine ⟨?_, ?_⟩
    · simp only [loopState, probe, he]
      have := hp.trans (passFrom_bitTaken (n + 1) ((loopState s n).answer 0) (loopState s n)
        [.txn (loopState s n).params.cmd1wt (some (bitArg (steering (loopState s n) (n + 1))))
          ((loopState s n).answer 0)])
      rw [hst, hp.params, ha] at this
      rw [hst, hp.params, ha]
      simpa [idleFrames, List.range_succ] using this
    · intro k hk'
      by_cases h' : k = n
      · rw [h', hs]
      · exact hk k (by omega)

/-! ### The search operations as passes -/

theorem searchOp_eq {rc : Byte} {s t : State} {found : Bool} (h : search rc s = (found, t)) :
    searchOp rc s = (bitByte found, t) := by
  simp only [searchOp, h]

/-- SEARCH_NEXT and ALARM_NEXT are one pass on the accepted state (44_search.md R161, R163). -/
theorem exec_pass {i : Instr} {rc : Byte} (h : PassOperation i rc) {s t : State} {found : Bool}
    (hs : search rc (accept s) = (found, t)) : exec i s = .next (complete (bitByte found) t) := by
  rcases h with ⟨rfl, rfl⟩ | ⟨rfl, rfl⟩
  · exact operate_of_eq (searchOp_eq hs)
  · exact operate_of_eq (searchOp_eq hs)

/-- Each search operation is one pass, on the accepted state or on that with the Search State reset
(44_search.md R160 to R163). -/
theorem exec_search {i : Instr} (h : i.isSearch = true) (s : State) :
    ∃ rc s0, (s0 = accept s ∨ s0 = searchStateReset (accept s)) ∧
      exec i s = .next (complete (searchOp rc s0).1 (searchOp rc s0).2) := by
  cases i <;> simp only [Instr.isSearch, Bool.false_eq_true] at h
  · exact ⟨_, _, .inr rfl, rfl⟩
  · exact ⟨_, _, .inl rfl, rfl⟩
  · exact ⟨_, _, .inr rfl, rfl⟩
  · exact ⟨_, _, .inl rfl, rfl⟩

theorem passStart_answer (s : State) (S : Byte) (fs gs : List Frame) (k : Nat) :
    (passStart s S fs gs).answer k = s.answer (fs.length + gs.length + k) := by
  simp [passStart]

/-- A pass on a bridge whose first two answers have 1WB = 0 and show presence: one frame each, then the
loop. -/
theorem search_of_idle {rc : Byte} {s : State} (hl : s.ldf = false) (hi : Idle s 2)
    (hp : stPresence (s.answer 0) = true) :
    search rc s =
      finishPass
        (searchLoop 64 Cursor.start (passStart s (s.answer 0) [.txn s.params.cmd1wrs none (s.answer 0)]
          [.txn s.params.cmd1wwb (some rc) (s.answer 1)])).1
        (searchLoop 64 Cursor.start (passStart s (s.answer 0) [.txn s.params.cmd1wrs none (s.answer 0)]
          [.txn s.params.cmd1wwb (some rc) (s.answer 1)])).2 := by
  rcases search_cases rc s with ⟨h, -⟩ | ⟨-, S, fs, hw, h⟩
  · rw [hl] at h; cases h
  · obtain ⟨rfl, rfl⟩ := waited_unique hw (waited_of_idle _ _ (hi 0 (by omega)))
    rcases h with ⟨h, -⟩ | ⟨-, T, gs, hg, h⟩
    · rw [hp] at h; cases h
    · have h1 : stBusy ((s.answered [.txn s.params.cmd1wrs none (s.answer 0)]).answer 0) = false := by
        simpa using hi 1 (by omega)
      obtain ⟨rfl, rfl⟩ := waited_unique hg (waited_of_idle _ _ h1)
      simpa using h

end Sys2Proof.Machine
end

