-- ==== Sys2Proof/Laws/PerInstr.lean ====
section
/-! SUPPORT. One law per instruction: the encoding has the match value of its row of
`spec/opcode_table.json` under the row's mask. -/

namespace Sys2Proof.Laws.RowMatch

open Sys2Proof Sys2Proof.Machine

/-- The bits of a row of the opcode table. -/
structure Row where
  nbits : Nat
  value : Nat
  mask : Nat

/-- The row of an instruction, copied from the table (default parameters). Write-byte-with-power has no
bits there. -/
def row : Instr → Option Row
  | .bridgeReset => some ⟨32, 0x00000001, 0xFFFFFFFF⟩
  | .detect => some ⟨32, 0x00000002, 0xFFFFFFFF⟩
  | .writeConfig _ => some ⟨32, 0x00000003, 0xFFFFF0FF⟩
  | .busReset => some ⟨32, 0x00000010, 0xFFFFFFFF⟩
  | .touchBit _ => some ⟨32, 0x00000011, 0xFFFFFEFF⟩
  | .writeBit _ => some ⟨32, 0x00000012, 0xFFFFFEFF⟩
  | .readBit => some ⟨32, 0x00000013, 0xFFFFFFFF⟩
  | .writeByte _ => some ⟨32, 0x00000014, 0xFFFF00FF⟩
  | .readByte => some ⟨32, 0x00000015, 0xFFFFFFFF⟩
  | .touchByte _ => some ⟨32, 0x00000016, 0xFFFF00FF⟩
  | .block _ => some ⟨32, 0x00000017, 0xFE00FFFF⟩
  | .setLevel _ => some ⟨32, 0x00000018, 0xFFFFFDFF⟩
  | .writeBitPower _ => some ⟨32, 0x00000019, 0xFFFFFEFF⟩
  | .writeBytePower _ => some ⟨32, 0x0000001A, 0xFFFF00FF⟩
  | .crcClear => some ⟨32, 0x00000020, 0xFFFFFFFF⟩
  | .crcUpdate _ => some ⟨32, 0x00000021, 0xFFFF00FF⟩
  | .searchFirst => some ⟨32, 0x00000030, 0xFFFFFFFF⟩
  | .searchNext => some ⟨32, 0x00000031, 0xFFFFFFFF⟩
  | .alarmFirst => some ⟨32, 0x00000032, 0xFFFFFFFF⟩
  | .alarmNext => some ⟨32, 0x00000033, 0xFFFFFFFF⟩
  | .triplet _ => some ⟨32, 0x00000034, 0xFFFFFEFF⟩
  | .bridgeDeviceReset => some ⟨8, 0xF0, 0xFF⟩
  | .bridgeWriteConfig _ => some ⟨16, 0xD200, 0xFF00⟩
  | .bridgeBusReset => some ⟨8, 0xB4, 0xFF⟩
  | .bridgeSingleBit _ => some ⟨16, 0x8700, 0xFF7F⟩
  | .bridgeWriteByte _ => some ⟨16, 0xA500, 0xFF00⟩
  | .bridgeReadByte => some ⟨8, 0x96, 0xFF⟩
  | .bridgeSetReadPointer => some ⟨16, 0xE1E1, 0xFFFF⟩
  | .bridgeTriplet _ => some ⟨16, 0x7800, 0xFF7F⟩
  | .bridgeWriteByteWithPower => none

/-- The encoding as the number of bits and the number the table would show: a frame's first byte is in the
high part. -/
def tableBits : Code → Nat × Nat
  | .request req => (32, req.toNat)
  | .frame bytes => (8 * bytes.length, bytes.foldl (fun n b => 256 * n + b.toNat) 0)

/-- The bits fit a row. -/
def fits (r : Row) (c : Code) : Bool :=
  (tableBits c).1 == r.nbits && ((tableBits c).2 &&& r.mask) == r.value

/-- Under the default parameters the encoding fits the instruction's row; an instruction without one is
not well formed. -/
def holds (i : Instr) : Bool :=
  match row i with
  | some r => fits r (encode defaultParams i)
  | none => !i.wf defaultParams

/-- `holds`, as a proposition. -/
def Statement (i : Instr) : Prop := holds i = true

theorem bridgeReset : Statement .bridgeReset :=
  show holds .bridgeReset = true by decide

theorem detect : Statement .detect :=
  show holds .detect = true by decide

theorem writeConfig (c : BitVec 4) : Statement (.writeConfig c) := by
  show holds (.writeConfig c) = true
  revert c
  decide

theorem busReset : Statement .busReset :=
  show holds .busReset = true by decide

theorem touchBit (b : Bool) : Statement (.touchBit b) := by
  show holds (.touchBit b) = true
  cases b <;> decide

theorem writeBit (b : Bool) : Statement (.writeBit b) := by
  show holds (.writeBit b) = true
  cases b <;> decide

theorem readBit : Statement .readBit :=
  show holds .readBit = true by decide

theorem writeByte (v : Byte) : Statement (.writeByte v) := by
  show holds (.writeByte v) = true
  revert v
  decide

theorem readByte : Statement .readByte :=
  show holds .readByte = true by decide

theorem touchByte (v : Byte) : Statement (.touchByte v) := by
  show holds (.touchByte v) = true
  revert v
  decide

theorem block (n : BitVec 9) : Statement (.block n) := by
  show holds (.block n) = true
  revert n
  decide

theorem setLevel (l : Level) : Statement (.setLevel l) := by
  show holds (.setLevel l) = true
  cases l <;> decide

theorem writeBitPower (b : Bool) : Statement (.writeBitPower b) := by
  show holds (.writeBitPower b) = true
  cases b <;> decide

theorem writeBytePower (v : Byte) : Statement (.writeBytePower v) := by
  show holds (.writeBytePower v) = true
  revert v
  decide

theorem crcClear : Statement .crcClear :=
  show holds .crcClear = true by decide

theorem crcUpdate (v : Byte) : Statement (.crcUpdate v) := by
  show holds (.crcUpdate v) = true
  revert v
  decide

theorem searchFirst : Statement .searchFirst :=
  show holds .searchFirst = true by decide

theorem searchNext : Statement .searchNext :=
  show holds .searchNext = true by decide

theorem alarmFirst : Statement .alarmFirst :=
  show holds .alarmFirst = true by decide

theorem alarmNext : Statement .alarmNext :=
  show holds .alarmNext = true by decide

theorem triplet (d : Bool) : Statement (.triplet d) := by
  show holds (.triplet d) = true
  cases d <;> decide

theorem bridgeDeviceReset : Statement .bridgeDeviceReset :=
  show holds .bridgeDeviceReset = true by decide

theorem bridgeWriteConfig (c : BitVec 4) : Statement (.bridgeWriteConfig c) := by
  show holds (.bridgeWriteConfig c) = true
  revert c
  decide

theorem bridgeBusReset : Statement .bridgeBusReset :=
  show holds .bridgeBusReset = true by decide

theorem bridgeSingleBit (b : Bool) : Statement (.bridgeSingleBit b) := by
  show holds (.bridgeSingleBit b) = true
  cases b <;> decide

theorem bridgeWriteByte (v : Byte) : Statement (.bridgeWriteByte v) := by
  show holds (.bridgeWriteByte v) = true
  revert v
  decide

theorem bridgeReadByte : Statement .bridgeReadByte :=
  show holds .bridgeReadByte = true by decide

theorem bridgeSetReadPointer : Statement .bridgeSetReadPointer :=
  show holds .bridgeSetReadPointer = true by decide

theorem bridgeTriplet (d : Bool) : Statement (.bridgeTriplet d) := by
  show holds (.bridgeTriplet d) = true
  cases d <;> decide

theorem bridgeWriteByteWithPower : Statement .bridgeWriteByteWithPower :=
  show holds .bridgeWriteByteWithPower = true by decide

end Sys2Proof.Laws.RowMatch
end

