-- ==== Sys2Proof/Machine/HostProgram.lean ====
section
/-! DEFINITION. Running a host program (30_encoding.md R98, 70_reset_and_hazards.md R204). The host is the
block's environment: a program's lines become actions at the port, and its branches read RESULT. -/

namespace Sys2Proof.Machine

/-- A host program: each line with its label, if it has one. -/
abbrev HostProgram := List (Option (List Char) × HostLine)

/-- A program from its source lines; `none` is an assembly error (30_encoding.md R95). -/
def readProgram (P : Params) : List String → Option HostProgram
  | [] => some []
  | l :: ls =>
    match hostLine P (readLine l.toList), readProgram P ls with
    | some h, some hs => some (((readLine l.toList).label, h) :: hs)
    | _, _ => none

/-- The index of the line a label marks. 30_encoding.md R98 does not say what a label on several lines means.
DESIGN CHOICE (log entry 16): the first of them. -/
def lineOfLabel (prog : HostProgram) (label : List Char) : Option Nat :=
  prog.findIdx? fun line => line.1 == some label

/-- The host performs actions one after another: each is the only one pending when it is made, and
nothing overlaps it (20_memory.md R68). -/
def performAll : List PortEvent → State → Host.Outcome State Fault Refusal
  | [], s => .next s
  | e :: es, s =>
    match step (s.setPort [e]) with
    | .next s' => performAll es s'
    | .fault f => .fault f
    | .refused r => .refused r

/-- How a run of a host program ends (70_reset_and_hazards.md R204): at HALT or after the last line, at a
fault or a refusal, at a branch to a label the program lacks, or not within the fuel. -/
inductive RunEnd where
  | ended (s : State)
  | fault (f : Fault)
  | refused (r : Refusal)
  | noSuchLabel (label : List Char)
  | outOfFuel (s : State)
deriving DecidableEq, Repr

/-- Running at most `fuel` lines from line `pc` on. -/
def runProgram (prog : HostProgram) : Nat → Nat → State → RunEnd
  | 0, _, s => .outOfFuel s
  | fuel + 1, pc, s =>
    match prog[pc]? with
    | none => .ended s
    | some (_, .halt) => .ended s
    | some (_, .blank) => runProgram prog fuel (pc + 1) s
    | some (_, .act es) =>
      match performAll es s with
      | .next s' => runProgram prog fuel (pc + 1) s'
      | .fault f => .fault f
      | .refused r => .refused r
    | some (_, .beq v label) =>
      if s.result = v then
        match lineOfLabel prog label with
        | some pc' => runProgram prog fuel pc' s
        | none => .noSuchLabel label
      else runProgram prog fuel (pc + 1) s
    | some (_, .bne v label) =>
      if s.result ≠ v then
        match lineOfLabel prog label with
        | some pc' => runProgram prog fuel pc' s
        | none => .noSuchLabel label
      else runProgram prog fuel (pc + 1) s

end Sys2Proof.Machine
end

