-- ==== Sys2Proof/Tests/Slice0.lean ====
section
/-! SUPPORT. Tests. Expected results are the spec's own: the encodings of 30_encoding.md and the vectors
of 95_test_vectors.md (named in the comments). Then one witness per obligation with hypotheses. -/

namespace Sys2Proof.Tests

open Sys2Proof Sys2Proof.Machine

/-! ### Helpers -/

/-- The state after reset on a bridge that will give these answers. -/
def fresh (replies : List Byte) : State := { State.reset with replies := replies }

/-- The outcome is a next state with the property. -/
def nextIs (o : Host.Outcome State Fault Refusal) (p : State → Bool) : Bool :=
  match o with
  | .next t => p t
  | .fault _ => false
  | .refused _ => false

/-- ROM as a list of bytes. -/
def romList (s : State) : List Byte := s.rom.toList

/-- The four registers of the Search State. -/
def searchState (s : State) : Nat × Nat × Bool × Byte := (s.ld.toNat, s.lfd.toNat, s.ldf, s.crc8)

/-! ### Well-formedness: the checks refuse ill-formed terms -/

theorem test_wf_block_257 : ¬ WellFormed defaultParams (.block 257) := by decide
theorem test_wf_block_256 : WellFormed defaultParams (.block 256) := by decide
theorem test_wf_write_byte_with_power : ¬ WellFormed defaultParams .bridgeWriteByteWithPower := by decide

/-! ### Decoding: one word per row, written out from R75, R76, R79 and R86 -/

theorem test_decode_lifecycle :
    decodeTableWord 32 0b00000000000000000000000000000001 = some .bridgeReset ∧
    decodeTableWord 32 0b00000000000000000000000000000010 = some .detect ∧
    decodeTableWord 32 0b00000000000000000000010100000011 = some (.writeConfig 0x5) ∧
    decodeTableWord 32 0x00000F03 = some (.writeConfig 0xF) := by decide

theorem test_decode_bit_and_reset :
    decodeTableWord 32 0b00000000000000000000000000010000 = some .busReset ∧
    decodeTableWord 32 0b00000000000000000000000100010001 = some (.touchBit true) ∧
    decodeTableWord 32 0x00000012 = some (.writeBit false) ∧
    decodeTableWord 32 0x00000013 = some .readBit := by decide

theorem test_decode_byte_and_block :
    decodeTableWord 32 0b00000000000000001100110000010100 = some (.writeByte 0xCC) ∧
    decodeTableWord 32 0x00000015 = some .readByte ∧
    decodeTableWord 32 0x0000FF16 = some (.touchByte 0xFF) ∧
    decodeTableWord 32 0b00000000000010010000000000010111 = some (.block 9) ∧
    decodeTableWord 32 0x00000017 = some (.block 0) ∧
    decodeTableWord 32 0x01000017 = some (.block 256) := by decide

theorem test_decode_power :
    decodeTableWord 32 0x00000018 = some (.setLevel .standard) ∧
    decodeTableWord 32 0b00000000000000000000001000011000 = some (.setLevel .strong) ∧
    decodeTableWord 32 0x00000119 = some (.writeBitPower true) ∧
    decodeTableWord 32 0x0000441A = some (.writeBytePower 0x44) := by decide

theorem test_decode_crc :
    decodeTableWord 32 0b00000000000000000000000000100000 = some .crcClear ∧
    decodeTableWord 32 0b00000000000000000000001000100001 = some (.crcUpdate 0x02) := by decide

theorem test_decode_search :
    decodeTableWord 32 0b00000000000000000000000000110000 = some .searchFirst ∧
    decodeTableWord 32 0x00000031 = some .searchNext ∧
    decodeTableWord 32 0x00000032 = some .alarmFirst ∧
    decodeTableWord 32 0x00000033 = some .alarmNext ∧
    decodeTableWord 32 0b00000000000000000000000100110100 = some (.triplet true) := by decide

/-- R86 with the default opcodes, first byte in the high part; the argument bytes of R88 to R90. -/
theorem test_decode_bridge_frames :
    decodeTableWord 8 0b11110000 = some .bridgeDeviceReset ∧
    decodeTableWord 16 0b1101001010100101 = some (.bridgeWriteConfig 0x5) ∧
    decodeTableWord 8 0xB4 = some .bridgeBusReset ∧
    decodeTableWord 16 0x8780 = some (.bridgeSingleBit true) ∧
    decodeTableWord 16 0xA5F0 = some (.bridgeWriteByte 0xF0) ∧
    decodeTableWord 8 0x96 = some .bridgeReadByte ∧
    decodeTableWord 16 0xE1E1 = some .bridgeSetReadPointer ∧
    decodeTableWord 16 0b0111100000000000 = some (.bridgeTriplet false) := by decide

/-- R93: with a value for the opcode the row decodes; without one there is nothing to decode. -/
theorem test_decode_write_byte_with_power :
    decode { defaultParams with cmdWbp := some 0x5A } (.frame [0x5A]) = .ok .bridgeWriteByteWithPower ∧
    decode defaultParams (encode defaultParams .bridgeWriteByteWithPower) = .error .unknownFrame := by
  decide

/-- The illegal words of 95_test_vectors.md section 3. -/
theorem test_decode_illegal_words :
    [0x00000000, 0x00000004, 0x0000001B, 0x00000022, 0x00000035, 0x000000FF, 0x00000211, 0x00001003,
      0x00000118, 0x00000110, 0x00000117, 0x01010017, 0x00010014, 0x02000010, 0x80000030].all
      (fun w => decodeTableWord 32 w == none) = true := by decide

/-- A write-configuration frame whose upper nibble is not the complement is none the block sends (R90),
nor is a single-bit frame with another argument (R88), nor a three-byte frame (R87). -/
theorem test_decode_illegal_frames :
    decodeTableWord 16 0xD200 = none ∧ decodeTableWord 16 0x8701 = none ∧
    decode defaultParams (.frame [0xA5, 0x00, 0x00]) = .error .unknownFrame := by decide

/-! ### Lifecycle (section 4) -/

/-- L2: the single-bit result is masked out of the acknowledgement. -/
theorem test_bridge_reset_L2 :
    nextIs (exec .bridgeReset (fresh [0x30])) (fun t => t.result == 0x01 && t.hist == [.txn 0xF0 none 0x30]) = true := by
  decide

/-- L2b: the logic level is not. -/
theorem test_bridge_reset_L2b :
    nextIs (exec .bridgeReset (fresh [0x18])) (fun t => t.result == 0x00) = true := by decide

/-- L3. -/
theorem test_detect_L3 :
    nextIs (exec .detect (fresh [0x10, 0x01])) (fun t => t.result == 0x01 && t.cfg == 0x1 &&
      t.hist == [.txn 0xF0 none 0x10, .txn 0xD2 (some 0xE1) 0x01]) = true := by decide

/-- L5. -/
theorem test_detect_L5 :
    nextIs (exec .detect (fresh [0x10, 0x00, 0x10])) (fun t => t.result == 0x00 && t.cfg == 0x0 &&
      t.hist.length == 3) = true := by decide

/-- L7: the upper nibble of the echo is ignored. -/
theorem test_write_config_L7 :
    nextIs (exec (.writeConfig 0x5) (fresh [0xF5])) (fun t => t.result == 0x01 && t.cfg == 0x5 &&
      t.hist == [.txn 0xD2 (some 0xA5) 0xF5]) = true := by decide

/-- L8. -/
theorem test_write_config_L8 :
    nextIs (exec (.writeConfig 0x5) ((fresh [0x01, 0x10]).setCfg 0x1)) (fun t => t.result == 0x00 &&
      t.cfg == 0x1 && t.hist == [.txn 0xD2 (some 0xA5) 0x01, .txn 0xF0 none 0x10]) = true := by decide

/-! ### Bus primitives (sections 4 and 5) -/

/-- T3: busy clears on the last permitted re-read. -/
theorem test_bus_reset_T3 :
    nextIs (exec .busReset (fresh (List.replicate 10 0x03 ++ [0x02]))) (fun t => t.result == 0x01 &&
      t.hist == .txn 0xB4 none 0x03 :: (List.replicate 9 (.read 0x03) ++ [.read 0x02])) = true := by
  decide

/-- T2: exactly ten re-reads and one device reset; B2's short flag is not seen. -/
theorem test_bus_reset_T2 :
    nextIs (exec .busReset (fresh (List.replicate 11 0x07 ++ [0x10]))) (fun t => t.result == 0x00 &&
      !t.short && t.hist == .txn 0xB4 none 0x07 :: (List.replicate 10 (.read 0x07) ++
        [.txn 0xF0 none 0x10])) = true := by decide

/-- B3b: short without presence. -/
theorem test_bus_reset_B3b :
    nextIs (exec .busReset (fresh [0x04])) (fun t => t.result == 0x00 && t.short) = true := by decide

/-- B4. -/
theorem test_touch_bit_B4 :
    nextIs (exec (.touchBit true) (fresh [0x20])) (fun t => t.result == 0x01 &&
      t.hist == [.txn 0x87 (some 0x80) 0x20]) = true := by decide

/-- B5. -/
theorem test_touch_bit_B5 :
    nextIs (exec (.touchBit false) (fresh [0x00])) (fun t => t.result == 0x00 &&
      t.hist == [.txn 0x87 (some 0x00) 0x00]) = true := by decide

/-- B7. -/
theorem test_write_bit_B7 :
    nextIs (exec (.writeBit true) (fresh [0x20])) (fun t => t.result == 0x00 &&
      t.hist == [.txn 0x87 (some 0x80) 0x20]) = true := by decide

/-- B8. -/
theorem test_read_bit_B8 :
    nextIs (exec .readBit (fresh [0x20])) (fun t => t.result == 0x01 &&
      t.hist == [.txn 0x87 (some 0x80) 0x20]) = true := by decide

/-- B10: 0xFF is written, not read. -/
theorem test_write_byte_B10 :
    nextIs (exec (.writeByte 0xFF) (fresh [0x00])) (fun t => t.result == 0x00 &&
      t.hist == [.txn 0xA5 (some 0xFF) 0x00]) = true := by decide

/-- B12: the pointer switch is issued after the timeout. -/
theorem test_read_byte_B12 :
    nextIs (exec .readByte (fresh (List.replicate 11 0x01 ++ [0x10, 0x77]))) (fun t =>
      t.result == 0x77 && t.hist == .txn 0x96 none 0x01 :: (List.replicate 10 (.read 0x01) ++
        [.txn 0xF0 none 0x10, .txn 0xE1 (some 0xE1) 0x77])) = true := by decide

/-- B13. -/
theorem test_touch_byte_B13 :
    nextIs (exec (.touchByte 0x33) (fresh [0x00])) (fun t => t.result == 0x33 &&
      t.hist == [.txn 0xA5 (some 0x33) 0x00]) = true := by decide

/-- B14. -/
theorem test_touch_byte_B14 :
    nextIs (exec (.touchByte 0xFF) (fresh [0x00, 0x28])) (fun t => t.result == 0x28 &&
      t.hist == [.txn 0x96 none 0x00, .txn 0xE1 (some 0xE1) 0x28]) = true := by decide

/-- BUF = [0xCC, 0xFF] on a bridge that will give these answers. -/
def twoBytes (replies : List Byte) : State :=
  (fresh replies).setBuf [(0x0100, 0xCC), (0x0101, 0xFF)]

/-- B15. -/
theorem test_block_B15 :
    nextIs (exec (.block 2) (twoBytes [0x00, 0x00, 0x7E])) (fun t => t.result == 0x00 &&
      t.buf == [(0x0100, 0xCC), (0x0101, 0x7E)] && t.hist == [.txn 0xA5 (some 0xCC) 0x00,
        .txn 0x96 none 0x00, .txn 0xE1 (some 0xE1) 0x7E]) = true := by decide

/-- B17: the third byte has not been set. -/
theorem test_block_B17 :
    exec (.block 3) (twoBytes [0x00, 0x00, 0x7E]) = .fault (.bufByteUnset 2) := rfl

/-- B20. -/
theorem test_set_level_B20 :
    nextIs (exec (.setLevel .standard) ((fresh [0x05, 0x10]).setCfg 0x5)) (fun t =>
      t.result == 0x02 && t.cfg == 0x5 &&
      t.hist == [.txn 0xD2 (some 0xE1) 0x05, .txn 0xF0 none 0x10]) = true := by decide

/-- B21. -/
theorem test_set_level_B21 :
    nextIs (exec (.setLevel .strong) ((fresh []).setCfg 0x9)) (fun t =>
      t.result == 0x02 && t.cfg == 0x9 && t.hist == []) = true := by decide

/-- B22. -/
theorem test_write_bit_power_B22 :
    nextIs (exec (.writeBitPower true) ((fresh [0x05, 0x20]).setCfg 0x1)) (fun t =>
      t.result == 0x01 && t.cfg == 0x5 &&
      t.hist == [.txn 0xD2 (some 0xA5) 0x05, .txn 0x87 (some 0x80) 0x20]) = true := by decide

/-- B23: mismatch, reverted. -/
theorem test_write_bit_power_B23 :
    nextIs (exec (.writeBitPower false) ((fresh [0x05, 0x20, 0x01]).setCfg 0x1)) (fun t =>
      t.result == 0x00 && t.cfg == 0x1 && t.hist == [.txn 0xD2 (some 0xA5) 0x05,
        .txn 0x87 (some 0x80) 0x20, .txn 0xD2 (some 0xE1) 0x01]) = true := by decide

/-- The example of 42_bus.md R133. -/
theorem test_write_byte_power :
    nextIs (exec (.writeBytePower 0x44) ((fresh [0x05, 0x00]).setCfg 0x1)) (fun t =>
      t.result == 0x01 && t.cfg == 0x5 &&
      t.hist == [.txn 0xD2 (some 0xA5) 0x05, .txn 0xA5 (some 0x44) 0x00]) = true := by decide

/-! ### CRC-8 -/

/-- The example of 43_crc.md R141. -/
theorem test_crc_update :
    nextIs (exec (.crcUpdate 0x02) (fresh [])) (fun t => t.result == 0xBC && t.crc8 == 0xBC) = true := by
  decide

/-- The example of 43_crc.md R140. -/
theorem test_crc_clear :
    nextIs (exec .crcClear ((fresh []).setCrc8 0xA2)) (fun t => t.result == 0x00 && t.crc8 == 0x00) = true := by
  decide

/-- Program 3: the corrupted identifier folds to 0x43, the scratchpad of program 2 to 0x00. -/
theorem test_crc_fold :
    crcFold 0x00 [0x03, 0x1C, 0xB8, 0x01, 0x00, 0x00, 0x00, 0xA2] = 0x43 ∧
    crcFold 0x00 [0x50, 0x05, 0x4B, 0x46, 0x7F, 0xFF, 0x0C, 0x10, 0x1C] = 0x00 := by decide

/-! ### Search (section 8) -/

/-- The answers of vector S1, SEARCH_FIRST over the three reference devices. -/
def repliesS1 : List Byte :=
  [0x02, 0x00] ++
  [0x40, 0x40, 0x40, 0x00, 0xA0, 0x40, 0x40, 0x40] ++ [0x40, 0xA0, 0x40, 0xA0, 0xA0, 0x40, 0xA0, 0x40] ++
  [0x40, 0x40, 0xA0, 0xA0, 0xA0, 0xA0, 0x40, 0x40] ++ [0xA0, 0x40, 0x40, 0x40, 0x40, 0x40, 0x40, 0x40] ++
  [0x40, 0x40, 0x40, 0xA0, 0x40, 0x40, 0x40, 0x40] ++ List.replicate 16 0x40 ++
  [0xA0, 0x40, 0xA0, 0x40, 0xA0, 0x40, 0x40, 0x40]

set_option maxRecDepth 20000 in
/-- Vector S1. -/
theorem test_search_first_S1 :
    nextIs (exec .searchFirst (fresh repliesS1)) (fun t => t.result == 0x01 &&
      romList t == [0x10, 0x5A, 0x3C, 0x01, 0x08, 0x00, 0x00, 0x15] &&
      searchState t == (4, 4, false, 0x00) && t.hist.length == 66) = true := by decide

/-- The state vector S1 ends in, on a bridge that will give these answers. -/
def afterS1 (replies : List Byte) : State :=
  { (fresh replies).setRom #v[0x10, 0x5A, 0x3C, 0x01, 0x08, 0x00, 0x00, 0x15] (Vector.replicate 8 0xFF) with
    ld := 4, lfd := 4 }

/-- The answers of vector S2. -/
def repliesS2 : List Byte :=
  [0x02, 0x00] ++
  [0x40, 0x40, 0x40, 0x80, 0x40, 0xA0, 0x40, 0x40] ++ [0x00, 0xA0, 0x40, 0x40, 0x40, 0x40, 0x40, 0x40] ++
  List.replicate 40 0x40 ++ [0x40, 0x40, 0x40, 0x40, 0xA0, 0xA0, 0xA0, 0x40]

set_option maxRecDepth 20000 in
/-- Vector S2: the argument 0x80 goes out at position 4 only. -/
theorem test_search_next_S2 :
    nextIs (exec .searchNext (afterS1 repliesS2)) (fun t => t.result == 0x01 &&
      romList t == [0x28, 0x02, 0x00, 0x00, 0x00, 0x00, 0x00, 0x70] &&
      searchState t == (9, 4, false, 0x00) &&
      (t.hist.drop 2).map Frame.written ==
        (List.replicate 64 [0x78, 0x00]).set 3 [0x78, 0x80]) = true := by decide

/-- Vector S17: abort at position 1. -/
theorem test_search_next_S17 :
    nextIs (exec .searchNext (afterS1 [0x02, 0x00, 0x60])) (fun t => t.result == 0x00 &&
      romList t == [0x10, 0x5A, 0x3C, 0x01, 0x08, 0x00, 0x00, 0x15] &&
      searchState t == (0, 0, false, 0x00) && t.hist == [.txn 0xB4 none 0x02,
        .txn 0xA5 (some 0xF0) 0x00, .txn 0x78 (some 0x00) 0x60]) = true := by decide

/-- A device's answers on a bus where it is alone. -/
def aloneReplies (d : Identifier) : List Byte :=
  (List.range 64).map fun k => if d.getLsbD k then 0xA0 else 0x40

/-- The reference device A = 28 01 00 00 00 00 00 29, ROM[0] in the low byte. -/
def deviceA : Identifier := 0x2900000000000128

/-- The reference device B = 28 02 00 00 00 00 00 70. -/
def deviceB : Identifier := 0x7000000000000228

set_option maxRecDepth 20000 in
/-- Vector S12: the alarm pass finds B alone. -/
theorem test_alarm_first_S12 :
    nextIs (exec .alarmFirst (fresh ([0x02, 0x00] ++ aloneReplies deviceB))) (fun t =>
      t.result == 0x01 && romList t == [0x28, 0x02, 0x00, 0x00, 0x00, 0x00, 0x00, 0x70] &&
      searchState t == (0, 0, true, 0x00) && t.hist.take 3 == [.txn 0xB4 none 0x02,
        .txn 0xA5 (some 0xEC) 0x00, .txn 0x78 (some 0x00) 0x40]) = true := by decide

/-- Vector S12, second call: LDF is set, no frame. -/
theorem test_alarm_next_S12 :
    nextIs (exec .alarmNext ((fresh []).setLdf true)) (fun t => t.result == 0x00 && t.ldf &&
      t.hist == []) = true := by decide

set_option maxRecDepth 20000 in
/-- Vector S13: the all-zero identifier is rejected after a zero CRC. -/
theorem test_search_first_S13 :
    nextIs (exec .searchFirst (fresh ([0x02, 0x00] ++ aloneReplies 0))) (fun t =>
      t.result == 0x00 && romList t == List.replicate 8 0x00 &&
      searchState t == (0, 0, false, 0x00) && t.hist.length == 66) = true := by decide

/-- Vector S14. -/
theorem test_triplet_S14 :
    nextIs (exec (.triplet true) (fresh [0x80])) (fun t => t.result == 0x80 &&
      t.hist == [.txn 0x78 (some 0x80) 0x80]) = true := by decide

/-- Vector S15: both probe bits 1 do not abort a TRIPLET. -/
theorem test_triplet_S15 :
    nextIs (exec (.triplet false) (fresh [0x60])) (fun t => t.result == 0x60) = true := by decide

/-! ### Bridge rows: the frame each one sends (30_encoding.md R86) -/

theorem test_bridge_rows :
    [Instr.bridgeDeviceReset, .bridgeWriteConfig 0x1, .bridgeBusReset, .bridgeSingleBit true,
      .bridgeWriteByte 0xCC, .bridgeReadByte, .bridgeSetReadPointer, .bridgeTriplet true].map
      (fun i => match exec i (fresh [0x10]) with
        | .next t => t.hist
        | .fault _ => []
        | .refused _ => []) =
    [[.txn 0xF0 none 0x10], [.txn 0xD2 (some 0xE1) 0x10], [.txn 0xB4 none 0x10],
      [.txn 0x87 (some 0x80) 0x10], [.txn 0xA5 (some 0xCC) 0x10], [.txn 0x96 none 0x10],
      [.txn 0xE1 (some 0xE1) 0x10], [.txn 0x78 (some 0x80) 0x10]] := by decide

/-! ### Steps: requests and host accesses (section 7) -/

/-- X1. -/
theorem test_step_X1 :
    nextIs (step (((fresh []).setResult 0x5E).withFetchWord 32 0x00000000)) (fun t =>
      t.hsr == 0x02 && t.result == 0x5E && t.hist == [] && t.port == []) = true := by decide

/-- X2: a legal request clears ILLEGAL. -/
theorem test_step_X2 :
    nextIs (step (((fresh [0x02]).setHsr 0x02).withFetchWord 32 0x00000010)) (fun t =>
      t.hsr == 0x00 && t.result == 0x01) = true := by decide

/-- The word placed for a step is what the step runs. -/
theorem test_step_runs_word : step (State.reset.withFetchWord 32 0x00000030) = exec .searchFirst State.reset :=
  rfl

theorem test_step_runs_frame : step (State.reset.withFetchWord 16 0x7880) = exec (.bridgeTriplet true) State.reset :=
  rfl

/-- X5: BUF[5] is written, then read. -/
theorem test_step_X5 :
    nextIs (step ((fresh []).setPort [.memWrite 0x0105 1 0xAA, .memRead 0x0105 1])) (fun t =>
      nextIs (step t) (fun u => u.readData == some 0xAA && u.buf == [(0x0105, 0xAA)])) = true := by decide

/-- X4 and X6: reserved addresses read 0x00. -/
theorem test_step_X4_X6 :
    [0x0010, 0xFFFF, 0x0200].all (fun a =>
      nextIs (step ((fresh []).setPort [.memRead a 1])) (fun t => t.readData == some 0x00)) = true := by
  decide

/-- A written ROM byte is read back; writing it has no effect (20_memory.md R55, R56). -/
theorem test_step_rom_read :
    nextIs (step ((afterS1 []).setPort [.memWrite 0x0008 1 0x55, .memRead 0x0008 1])) (fun t =>
      nextIs (step t) (fun u => u.readData == some 0x10)) = true := by decide

/-- With nothing at the port the block waits. -/
theorem test_step_idle : step State.reset = .next State.reset := rfl

/-! ### Notation (30_encoding.md R96, R99) -/

theorem test_assemble :
    assemble defaultParams (readLine "WRITE_BYTE 0xCC ; match".toList) = some 0x0000CC14 ∧
    assemble defaultParams (readLine "l1: OWBlock 9".toList) = some 0x00090017 ∧
    assemble defaultParams (readLine "BLOCK 257".toList) = none := by decide

theorem test_disassemble :
    disassemble defaultParams 0x0000CC14 = "WRITE_BYTE 0xCC".toList ∧
    disassemble defaultParams 0x00000004 = ".illegal 0x00000004".toList := by decide

/-! ### Witnesses: a concrete state and operands that meet the hypotheses of each obligation -/

/-- The state after reset with one host action at the port. -/
def withAction (e : PortEvent) : State := State.reset.setPort [e]

theorem withAction_free (e : PortEvent) : hsrBusy (withAction e).hsr = false := by
  show hsrBusy State.reset.hsr = false
  decide

theorem witness_HostReadReturnsMap :
    ∀ a ∈ [0x0000#16, 0x0001#16, 0x0002#16, 0x0003#16, 0x0004#16, 0x0005#16, 0x0006#16, 0x0007#16,
        0x0008#16, 0x000F#16, 0x0100#16, 0x01FF#16],
      hsrBusy (withAction (.memRead a 1)).hsr = false ∧
        (withAction (.memRead a 1)).port = .memRead a 1 :: [] := fun _ _ => ⟨withAction_free _, rfl⟩

theorem witness_HostReadReturnsMap_rom_and_buf :
    (0x0008#16).toNat = 0x0008 + 0 ∧ (0x000F#16).toNat = 0x0008 + 7 ∧ (0x0100#16).toNat = 0x0100 + 0 ∧
      (0x01FF#16).toNat = 0x0100 + 255 ∧ 255 < defaultParams.bufSize ∧
      (twoBytes []).bufByte 0 = some 0xCC := by decide

theorem witness_HostWriteStoresBufByte :
    hsrBusy (withAction (.memWrite 0x01FF 1 0xAA)).hsr = false ∧
      (withAction (.memWrite 0x01FF 1 0xAA)).port = .memWrite 0x01FF 1 0xAA :: [] ∧
      255 < (withAction (.memWrite 0x01FF 1 0xAA)).params.bufSize ∧ (0x01FF#16).toNat = 0x0100 + 255 :=
  ⟨withAction_free _, rfl, by decide, by decide⟩

theorem witness_ReservedAndReadOnlyAreInert :
    (∀ a ∈ [0x0010#16, 0x00FF#16, 0x0200#16, 0xFFFF#16],
      (0x0010 ≤ a.toNat ∧ a.toNat ≤ 0x00FF) ∨ 0x0100 + State.reset.params.bufSize ≤ a.toNat) ∧
      ∀ a ∈ [0x0000#16, 0x00FF#16, 0x0200#16],
        a.toNat ≤ 0x00FF ∨ 0x0100 + State.reset.params.bufSize ≤ a.toNat := by
  rw [show State.reset.params.bufSize = 256 from rfl]
  simp

theorem witness_ReservedAndReadOnlyAreInert_actions (a : Addr) (v : Byte) :
    hsrBusy (withAction (.memRead a 1)).hsr = false ∧
      (withAction (.memRead a 1)).port = .memRead a 1 :: [] ∧
      hsrBusy (withAction (.memWrite a 1 v)).hsr = false ∧
      (withAction (.memWrite a 1 v)).port = .memWrite a 1 v :: [] :=
  ⟨withAction_free _, rfl, withAction_free _, rfl⟩

theorem witness_OtherAccessWidthsRefused :
    hsrBusy State.reset.hsr = false ∧ (0 : Nat) ≠ 1 ∧ (2 : Nat) ≠ 1 ∧
      (withAction (.memRead 0x0000 0)).port = .memRead 0x0000 0 :: [] ∧
      (withAction (.memWrite 0x0100 2 0x55)).port = .memWrite 0x0100 2 0x55 :: [] :=
  ⟨by decide, by decide, by decide, rfl, rfl⟩

theorem witness_HostActionRefusedWhileBusy :
    (State.reset.setHsr 0x01).hsr.getLsbD 0 = true ∧
      ((State.reset.setHsr 0x01).setPort [.issue 0x00000010]).port = .issue 0x00000010 :: [] := by decide

theorem witness_StepRunsDecodedInstruction :
    hsrBusy State.reset.hsr = false ∧
      (withAction (.issue 0x00000010)).port = eventOfCode (.request 0x00000010) :: [] ∧
      decode State.reset.params (.request 0x00000010) = .ok .busReset ∧
      (withAction (.frame [0x78, 0x80])).port = eventOfCode (.frame [0x78, 0x80]) :: [] ∧
      decode State.reset.params (.frame [0x78, 0x80]) = .ok (.bridgeTriplet true) := by decide

theorem witness_OperationDecodesFromItsEncoding :
    (Instr.block 256).isOperation = true ∧ WellFormed defaultParams (.block 256) := by decide

theorem witness_LegalRequestIsTheEncoding :
    decode defaultParams (.request 0x01000017) = .ok (.block 256) := by decide

theorem witness_BridgeFramesDecodeAndEncodeAgree :
    defaultParams.opcodesDistinct = true ∧ (Instr.bridgeWriteConfig 0xF).isOperation = false ∧
      WellFormed defaultParams (.bridgeWriteConfig 0xF) ∧
      decode defaultParams (.frame [0xD2, 0x0F]) = .ok (.bridgeWriteConfig 0xF) := by decide

/-- One word for each alternative of the premise, at the ends of its OP ranges. -/
theorem witness_IllegalWordsRejected :
    ((0x02000010 : Word).extractLsb' 25 7).toNat ≠ 0 ∧
      (∀ w ∈ [0x00000004#32, 0x0000000F#32],
        0x04 ≤ (w.extractLsb' 0 8).toNat ∧ (w.extractLsb' 0 8).toNat ≤ 0x0F) ∧
      (∀ w ∈ [0x0000001B#32, 0x0000001F#32],
        0x1B ≤ (w.extractLsb' 0 8).toNat ∧ (w.extractLsb' 0 8).toNat ≤ 0x1F) ∧
      (∀ w ∈ [0x00000022#32, 0x0000002F#32],
        0x22 ≤ (w.extractLsb' 0 8).toNat ∧ (w.extractLsb' 0 8).toNat ≤ 0x2F) ∧
      (∀ w ∈ [0x00000035#32, 0x000000FF#32],
        0x35 ≤ (w.extractLsb' 0 8).toNat ∧ (w.extractLsb' 0 8).toNat ≤ 0xFF) ∧
      ((0x00000110 : Word).extractLsb' 8 8).toNat ≠ 0 ∧ 1 < ((0x00000211 : Word).extractLsb' 8 8).toNat ∧
      15 < ((0x00001003 : Word).extractLsb' 8 8).toNat ∧ ((0x00000118 : Word).extractLsb' 8 8).toNat = 1 ∧
      defaultParams.bufSize < ((0x01010017 : Word).extractLsb' 16 9).toNat ∧
      ((0x00010014 : Word).extractLsb' 16 9).toNat ≠ 0 := by
  rw [show defaultParams.bufSize = 256 from rfl]
  simp

theorem witness_IllegalRequestSetsOnlyHsr :
    hsrBusy State.reset.hsr = false ∧ (withAction (.issue 0x00000000)).port = .issue 0x00000000 :: [] ∧
      decode State.reset.params (.request 0x00000000) = .error .undefinedOp ∧
      Instr.crcClear.isOperation = true ∧
      nextIs (exec .crcClear State.reset) (fun _ => true) = true := by decide

theorem witness_StuckBusyGivesSentinelAndOneReset :
    ∀ j ≤ (fresh (List.replicate 11 0x01)).params.pollLimit,
      ((fresh (List.replicate 11 0x01)).answer j).getLsbD 0 = true := by decide

/-- Both ends of the range of k: 0 and P_POLL_LIMIT. -/
theorem witness_PollEndsAtFirstIdleSnapshot :
    (((fresh [0x02]).answer 0).getLsbD 0 = false) ∧
      10 ≤ (fresh (List.replicate 10 0x01 ++ [0x00])).params.pollLimit ∧
      (∀ j < 10, ((fresh (List.replicate 10 0x01 ++ [0x00])).answer j).getLsbD 0 = true) ∧
      ((fresh (List.replicate 10 0x01 ++ [0x00])).answer 10).getLsbD 0 = false := by decide

theorem witness_WriteConfigOutcome :
    ((fresh [0xF5]).answer 0).extractLsb' 0 4 = 0x5#4 ∧
      ((fresh [0x01]).answer 0).extractLsb' 0 4 ≠ 0x5#4 := by decide

theorem witness_DetectOutcome :
    ((fresh [0x00]).answer 0 &&& defaultParams.resetAckMask) ≠ defaultParams.resetAck ∧
      ((fresh [0x30, 0x01]).answer 0 &&& defaultParams.resetAckMask) = defaultParams.resetAck ∧
      ((fresh [0x30, 0x01]).answer 1).extractLsb' 0 4 = 0x1#4 ∧
      ((fresh [0x30, 0x00]).answer 1).extractLsb' 0 4 ≠ 0x1#4 := by decide

theorem witness_TouchByteOutcome : (0xFE : Byte) ≠ 0xFF := by decide

theorem witness_BlockOutcome :
    ∀ j < (2 : BitVec 9).toNat, ((twoBytes []).bufByte j).isSome = true := by decide

theorem witness_BlockFaultsOnUnsetByte :
    ∃ j < (3 : BitVec 9).toNat, (twoBytes []).bufByte j = none := by decide

theorem witness_StrongPullupPersists :
    ((fresh [0x01]).setCfg 0x5).cfg.getLsbD 2 = true ∧
      nextIs (exec (.setLevel .standard) ((fresh [0x01]).setCfg 0x5)) (fun t => !t.cfg.getLsbD 2) = true := by
  decide

theorem witness_ShortIsNeverRead :
    nextIs (exec .busReset (fresh [0x06])) (fun t => t.short) = true := by decide

theorem witness_CrcOfBytesAndTheirCrcIsZero :
    [0x02#8, 0x1C#8, 0xB8#8, 0x01#8, 0x00#8, 0x00#8, 0x00#8].length = 7 := by decide

theorem witness_CrcDetectsSingleBitFlip :
    [0x02#8, 0x1C#8, 0xB8#8, 0x01#8, 0x00#8, 0x00#8, 0x00#8, 0xA2#8].length = 8 ∧
      crcFold 0x00 [0x02#8, 0x1C#8, 0xB8#8, 0x01#8, 0x00#8, 0x00#8, 0x00#8, 0xA2#8] = 0x00 ∧
      7 < 8 := by decide

theorem witness_PassOperation :
    PassOperation .searchNext 0xF0 ∧ PassOperation .alarmNext 0xEC :=
  ⟨.inl ⟨rfl, rfl⟩, .inr ⟨rfl, rfl⟩⟩

theorem witness_LastDeviceExit : ((fresh []).setLdf true).ldf = true := rfl

/-- Both clauses: no presence, and presence. -/
theorem witness_NoPresenceResetsSearchState :
    (fresh [0x04]).ldf = false ∧
      Waited (fresh [0x04]) 0xB4 none 0x04 [.txn 0xB4 none 0x04] ∧ (0x04#8).getLsbD 1 = false ∧
      Waited (fresh [0x02]) 0xB4 none 0x02 [.txn 0xB4 none 0x02] ∧ (0x02#8).getLsbD 1 = true :=
  ⟨rfl, waited_of_idle (s := fresh [0x04]) 0xB4 none rfl, rfl,
    waited_of_idle (s := fresh [0x02]) 0xB4 none rfl, rfl⟩

theorem witness_SearchWritesOnlyItsRegisters :
    [Instr.searchFirst, .searchNext, .alarmFirst, .alarmNext].all Instr.isSearch = true := by decide

/-- The premises of a complete pass, as a check. -/
def completePass (s : State) : Bool :=
  (List.range 66).all (fun k => !stBusy (s.answer k)) && (s.answer 0).getLsbD 1 &&
    (List.range 64).all fun k => !noneResponded (tripletAnswer s (k + 1))

theorem completePass_spec {s : State} (h : completePass s = true) :
    Idle s 66 ∧ (s.answer 0).getLsbD 1 = true ∧
      ∀ p, 1 ≤ p → p ≤ 64 → noneResponded (tripletAnswer s p) = false := by
  simp only [completePass, Bool.and_eq_true, List.all_eq_true, List.mem_range, Bool.not_eq_true'] at h
  refine ⟨h.1.1, h.1.2, fun p h1 h2 => ?_⟩
  have := h.2 (p - 1) (by omega)
  rwa [show p - 1 + 1 = p by omega] at this

/-- Vector S2 meets the premises, and its identifier is accepted. -/
theorem witness_CompletePassOutcome :
    (afterS1 repliesS2).ldf = false ∧ Idle (afterS1 repliesS2) 66 ∧
      ((afterS1 repliesS2).answer 0).getLsbD 1 = true ∧
      ∀ p, 1 ≤ p → p ≤ 64 → noneResponded (tripletAnswer (afterS1 repliesS2) p) = false :=
  ⟨rfl, completePass_spec (by set_option maxRecDepth 20000 in decide)⟩

/-- Vector S13 meets them too, and its identifier is not accepted. -/
theorem witness_CompletePassOutcome_rejected :
    (fresh ([0x02, 0x00] ++ aloneReplies 0)).ldf = false ∧
      Idle (fresh ([0x02, 0x00] ++ aloneReplies 0)) 66 ∧
      ((fresh ([0x02, 0x00] ++ aloneReplies 0)).answer 0).getLsbD 1 = true ∧
      ∀ p, 1 ≤ p → p ≤ 64 →
        noneResponded (tripletAnswer (fresh ([0x02, 0x00] ++ aloneReplies 0)) p) = false :=
  ⟨rfl, completePass_spec (by set_option maxRecDepth 20000 in decide)⟩

/-- Answers of a pass aborted at position n + 1. -/
def abortedReplies (n : Nat) : List Byte := [0x02, 0x00] ++ List.replicate n 0x40 ++ [0x60]

/-- Both ends of the range of p: 1 and 64. -/
theorem witness_AbortedPassOutcome :
    (fresh (abortedReplies 0)).ldf = false ∧
      (∀ k < 3, stBusy ((fresh (abortedReplies 0)).answer k) = false) ∧
      ((fresh (abortedReplies 0)).answer 0).getLsbD 1 = true ∧
      noneResponded (tripletAnswer (fresh (abortedReplies 0)) 1) = true ∧
      (∀ k < 66, stBusy ((fresh (abortedReplies 63)).answer k) = false) ∧
      ((fresh (abortedReplies 63)).answer 0).getLsbD 1 = true ∧
      noneResponded (tripletAnswer (fresh (abortedReplies 63)) 64) = true ∧
      (∀ q < 64, q = 0 ∨ noneResponded (tripletAnswer (fresh (abortedReplies 63)) q) = false) := by
  set_option maxRecDepth 20000 in decide

/-- With P_POLL_LIMIT = 1, every triplet busy (vector S16 with a smaller limit). -/
def busyTriplets : State :=
  { fresh ([0x02, 0x00] ++ List.replicate 192 0x01) with
    params := { defaultParams with pollLimit := 1 } }

theorem witness_AllTripletsTimeOut :
    busyTriplets.ldf = false ∧ (∀ k < 2, stBusy (busyTriplets.answer k) = false) ∧
      (busyTriplets.answer 0).getLsbD 1 = true ∧
      ∀ j < 64, ∀ k ≤ busyTriplets.params.pollLimit,
        (busyTriplets.answer (2 + j * (busyTriplets.params.pollLimit + 2) + k)).getLsbD 0 = true := by
  set_option maxRecDepth 20000 in decide

/-! #### A faithful bridge over the reference devices A and B -/

/-- The identifier agrees with the directions taken before position p. -/
def agrees (s : State) (p : Nat) (d : Identifier) : Bool :=
  (List.range (p - 1)).all fun k => idBit d (k + 1) == stDirection (tripletAnswer s (k + 1))

/-- The conditions of `Faithful` at position p, as a check. -/
def faithfulAt (s : State) (devices : List Identifier) (p : Nat) : Bool :=
  let active := devices.filter (agrees s p)
  let S := tripletAnswer s p
  (stSingleBit S == active.all fun d => idBit d p) &&
    (stTripletSecond S == active.all fun d => !idBit d p) &&
    (stDirection S ==
      if stSingleBit S then true else if stTripletSecond S then false else steering s p)

/-- `Faithful`, as a check. -/
def faithful (s : State) (devices : List Identifier) : Bool :=
  (List.range 66).all (fun k => !stBusy (s.answer k)) && stPresence (s.answer 0) &&
    (List.range 64).all fun k => faithfulAt s devices (k + 1)

theorem active_iff (s : State) (devices : List Identifier) (p : Nat) (d : Identifier) :
    Active s devices p d ↔ d ∈ devices.filter (agrees s p) := by
  simp only [Active, List.mem_filter, agrees, List.all_eq_true, List.mem_range, beq_iff_eq]
  constructor
  · rintro ⟨h1, h2⟩
    exact ⟨h1, fun k hk => h2 (k + 1) (by omega) (by omega)⟩
  · rintro ⟨h1, h2⟩
    refine ⟨h1, fun q hq hq' => ?_⟩
    have := h2 (q - 1) (by omega)
    rwa [show q - 1 + 1 = q by omega] at this

theorem faithful_spec {s : State} {devices : List Identifier} (h : faithful s devices = true) :
    Faithful s devices := by
  simp only [faithful, Bool.and_eq_true, List.all_eq_true, List.mem_range, Bool.not_eq_true'] at h
  obtain ⟨⟨h1, h2⟩, h3⟩ := h
  have hp : ∀ p, 1 ≤ p → p ≤ 64 → faithfulAt s devices p = true := fun p hp1 hp2 => by
    have := h3 (p - 1) (by omega)
    rwa [show p - 1 + 1 = p by omega] at this
  simp only [faithfulAt, Bool.and_eq_true, beq_iff_eq] at hp
  refine ⟨h1, h2, fun p hp1 hp2 => ?_, fun p hp1 hp2 => ?_, fun p hp1 hp2 => (hp p hp1 hp2).2⟩
  · rw [(hp p hp1 hp2).1.1, List.all_eq_true]
    exact forall_congr' fun d => by rw [active_iff]
  · rw [(hp p hp1 hp2).1.2, List.all_eq_true]
    exact forall_congr' fun d => by rw [active_iff, Bool.not_eq_true']

/-- The answers of vector S10: a pass that finds B, then one that finds A. The devices differ first at
position 9. -/
def repliesS10 : List Byte :=
  [0x02, 0x00] ++ (aloneReplies deviceB).set 8 0x00 ++ [0x02, 0x00] ++ (aloneReplies deviceA).set 8 0x80

/-- The state at the start of vector S10. -/
def startS10 : State := fresh repliesS10

/-- The state after its first pass: LD = 9, LFD = 0, ROM = B. -/
def middleS10 : State :=
  { completed startS10 (passFrames startS10 0xF0 64) 0x01 with
    ld := 9
    rom := #v[0x28, 0x02, 0x00, 0x00, 0x00, 0x00, 0x00, 0x70]
    romSet := Vector.replicate 8 0xFF }

/-- The state after its second pass: LD = 0, LDF = 1, ROM = A. -/
def endS10 : State :=
  { completed middleS10 (passFrames middleS10 0xF0 64) 0x01 with
    ld := 0
    ldf := true
    rom := #v[0x28, 0x01, 0x00, 0x00, 0x00, 0x00, 0x00, 0x29] }

theorem identifiersOk : IdentifierOk deviceA ∧ IdentifierOk deviceB := by
  unfold IdentifierOk
  decide

set_option maxRecDepth 40000 in
theorem faithful_startS10 : Faithful startS10 [deviceA, deviceB] := faithful_spec (by decide)

set_option maxRecDepth 40000 in
theorem faithful_middleS10 : Faithful middleS10 [deviceA, deviceB] := faithful_spec (by decide)

set_option maxRecDepth 40000 in
theorem passesS10 :
    nextIs (exec .searchNext startS10) (fun t => t == middleS10) = true ∧
      nextIs (exec .searchNext middleS10) (fun t => t == endS10) = true := by decide

theorem eq_next_of_nextIs {o : Host.Outcome State Fault Refusal} {s : State}
    (h : nextIs o (fun t => t == s) = true) : o = .next s := by
  cases o with
  | next t => rw [beq_iff_eq.mp h]
  | fault _ => cases h
  | refused _ => cases h

/-- `Found`, as a check. -/
def found (s : State) (devices : List Identifier) (d : Identifier) : Bool :=
  let same := fun (p : Nat) (e : Identifier) =>
    (List.range (p - 1)).all fun k => idBit d (k + 1) == idBit e (k + 1)
  devices.contains d && (List.range 64).all (fun k => s.romBit (k + 1) == idBit d (k + 1)) &&
    decide (s.ld.toNat ≤ 64) &&
    (s.ld.toNat == 0 || (!idBit d s.ld.toNat &&
      devices.any fun e => same s.ld.toNat e && idBit e s.ld.toNat)) &&
    (List.range 65).all (fun p => decide (p ≤ s.ld.toNat) || idBit d p ||
      devices.all fun e => !same p e || !idBit e p) &&
    (s.ldf == decide (s.ld.toNat = 0))

theorem found_spec {s : State} {devices : List Identifier} {d : Identifier}
    (h : found s devices d = true) : Found s devices d := by
  have same : ∀ (p : Nat) (e : Identifier),
      (List.range (p - 1)).all (fun k => idBit d (k + 1) == idBit e (k + 1)) = true ↔
        ∀ q, 1 ≤ q → q < p → idBit d q = idBit e q := by
    intro p e
    simp only [List.all_eq_true, List.mem_range, beq_iff_eq]
    constructor
    · intro h q h1 h2
      have := h (q - 1) (by omega)
      rwa [show q - 1 + 1 = q by omega] at this
    · exact fun h k hk => h (k + 1) (by omega) (by omega)
  simp only [found, Bool.and_eq_true, decide_eq_true_eq, beq_iff_eq] at h
  obtain ⟨⟨⟨⟨⟨h1, h2⟩, h3⟩, h4⟩, h5⟩, h6⟩ := h
  refine ⟨by simpa using h1, ?_, h3, ?_, ?_, h6⟩
  · intro p hp1 hp2
    rw [List.all_eq_true] at h2
    have := h2 (p - 1) (List.mem_range.mpr (by omega))
    rw [show p - 1 + 1 = p by omega] at this
    exact beq_iff_eq.mp this
  · intro h0
    rw [Bool.or_eq_true, beq_iff_eq] at h4
    rcases h4 with h4 | h4
    · omega
    · simp only [Bool.and_eq_true, Bool.not_eq_true', List.any_eq_true] at h4
      obtain ⟨hb, e, he, hs, hbe⟩ := h4
      exact ⟨hb, e, he, (same _ e).mp hs, hbe⟩
  · intro p hp1 hp2 hb e he hs
    rw [List.all_eq_true] at h5
    have := h5 p (List.mem_range.mpr (by omega))
    simp only [Bool.or_eq_true, decide_eq_true_eq, List.all_eq_true] at this
    rcases this with (h | h) | h
    · omega
    · rw [hb] at h; cases h
    · rcases h e he with h | h
      · rw [(same p e).mpr hs] at h; cases h
      · simpa using h

/-- The root clause: LD = 0. -/
theorem witness_EachPassFindsTheNextIdentifier_root :
    startS10.ldf = false ∧ (∀ d ∈ [deviceA, deviceB], IdentifierOk d) ∧ [deviceA, deviceB] ≠ [] ∧
      Faithful startS10 [deviceA, deviceB] ∧ startS10.ld = 0 := by
  refine ⟨rfl, ?_, by simp, faithful_startS10, rfl⟩
  intro d hd
  simp only [List.mem_cons, List.not_mem_nil, or_false] at hd
  rcases hd with rfl | rfl
  · exact identifiersOk.1
  · exact identifiersOk.2

set_option maxRecDepth 40000 in
/-- The clause after a pass that found B with A still to come. -/
theorem witness_EachPassFindsTheNextIdentifier_next :
    middleS10.ldf = false ∧ Faithful middleS10 [deviceA, deviceB] ∧
      Found middleS10 [deviceA, deviceB] deviceB ∧ 0 < middleS10.ld.toNat :=
  ⟨rfl, faithful_middleS10, found_spec (by decide), by decide⟩

/-- The states of vector S10. -/
def statesS10 : Nat → State
  | 0 => startS10
  | 1 => middleS10
  | _ => endS10

theorem witness_EnumerationFindsEveryDevice :
    [deviceA, deviceB] ≠ [] ∧ [deviceA, deviceB].Nodup ∧ (statesS10 0).ld = 0 ∧
      (statesS10 0).ldf = false ∧
      ∀ k < [deviceA, deviceB].length, Faithful (statesS10 k) [deviceA, deviceB] ∧
        exec .searchNext (statesS10 k) = .next (statesS10 (k + 1)) := by
  refine ⟨by simp, by decide, rfl, rfl, fun k hk => ?_⟩
  match k, hk with
  | 0, _ => exact ⟨faithful_startS10, eq_next_of_nextIs passesS10.1⟩
  | 1, _ => exact ⟨faithful_middleS10, eq_next_of_nextIs passesS10.2⟩

/-! #### Whole-machine rules -/

/-- A state that meets the invariant with every register in use: after the first pass of vector S10. -/
theorem witness_Inv_middleS10 : Inv middleS10 where
  hsr := .inl rfl
  ld := by decide
  lfd := by decide
  flag := fun _ => rfl
  rom := fun _ => ⟨by decide, by decide, by decide⟩
  buf := rfl
  range := rfl

theorem witness_StepKeepsInvariant :
    step (middleS10.setPort [.issue 0x00000031]) = exec .searchNext middleS10 ∧
      exec .searchNext middleS10 = .next endS10 :=
  ⟨rfl, eq_next_of_nextIs passesS10.2⟩

theorem witness_OnlyLegalFramesAreSent :
    Instr.searchNext.isOperation = true ∧ exec .searchNext startS10 = .next middleS10 :=
  ⟨rfl, eq_next_of_nextIs passesS10.1⟩

theorem witness_FrameCountsAreBounded :
    nextIs (exec (.block 2) (twoBytes [0x00, 0x00, 0x7E])) (fun t => t.hist.length == 3) = true := by
  decide

theorem witness_steps_that_go_on :
    nextIs (step ((fresh [0x02]).withFetchWord 32 0x00000010)) (fun t => t.hist.length == 1) = true ∧
      nextIs (step ((fresh []).setPort [.memRead 0x0000 1])) (fun t => t.hist == []) = true := by decide

theorem witness_SearchStateHasOneWriter :
    (Instr.crcUpdate 0x02).isSearch = false ∧
      nextIs (exec (.crcUpdate 0x02) State.reset) (fun t => t.crc8 == 0xBC) = true := by decide

theorem witness_Crc8StaysZeroWithoutCrcUpdate :
    startS10.crc8 = 0x00 ∧ (∀ v, Instr.searchNext ≠ .crcUpdate v) ∧ Instr.searchNext.isSearch = true ∧
      startS10.ldf = false ∧ exec .searchNext startS10 = .next middleS10 :=
  ⟨rfl, (fun v h => by cases h), rfl, rfl, eq_next_of_nextIs passesS10.1⟩

theorem witness_DisassemblyAssemblesBack :
    decode defaultParams (.request 0x01000017) = .ok (.block 256) ∧
      assemble defaultParams (readLine (disassemble defaultParams 0x01000017)) = some 0x01000017 := by
  decide

end Sys2Proof.Tests
end

section
/-! The request port (20_memory.md R54, 00_scope.md R15): what a step does with the next action, and the
obligations that follow. Continues the laws of Sys2Proof/Laws/Port.lean for the step itself. -/

namespace Sys2Proof.Machine

/-- A step of a block that is not busy runs the next action on the state with that action taken from the
port (70_reset_and_hazards.md R194 for the condition). -/
theorem step_of_port_cons {s : State} {e : PortEvent} {rest : List PortEvent}
    (hfree : hsrBusy s.hsr = false) (hport : s.port = e :: rest) :
    step s = runEvent e (s.setPort rest) := by
  simp [step, runPort, hport, hfree]

theorem runMemRead_of_width_ne_one {n : Nat} (hn : n ≠ 1) (addr : Addr) (s : State) :
    runMemRead addr n s = .refused .accessWidth :=
  if_neg hn

theorem runMemWrite_of_width_ne_one {n : Nat} (hn : n ≠ 1) (addr : Addr) (v : Byte) (s : State) :
    runMemWrite addr n v s = .refused .accessWidth :=
  if_neg hn

/-- Settles O5: the step hands the access to its own procedure, which refuses the width. -/
theorem otherAccessWidthsRefused : Obligations.OtherAccessWidthsRefused := by
  intro s rest a n hfree hn
  refine ⟨fun hport => ?read, fun v hport => ?write⟩
  case read => exact (step_of_port_cons hfree hport).trans (runMemRead_of_width_ne_one hn a _)
  case write => exact (step_of_port_cons hfree hport).trans (runMemWrite_of_width_ne_one hn a v _)

end Sys2Proof.Machine
end

section
/-! Frames that carry the bridge's answers in order (10_state.md R38, 20_memory.md R69), and everything a
pass can do: its frames, the registers it writes and the three ways it can end (44_search.md R150). -/

namespace Sys2Proof.Machine

/-! ### Frames that carry the answers in order -/

/-- The k-th of the frames fs carries the k-th answer of the bridge from s on (20_memory.md R69). -/
def CarriesAnswers (s : State) (fs : List Frame) : Prop :=
  ∀ k f, fs[k]? = some f → f.reply = s.answer k

theorem carriesAnswers_nil (s : State) : CarriesAnswers s [] := by
  simp [CarriesAnswers]

theorem carriesAnswers_singleton {s : State} {f : Frame} (h : f.reply = s.answer 0) :
    CarriesAnswers s [f] := by
  intro k g hg
  cases k with
  | zero => simp only [List.getElem?_cons_zero, Option.some.injEq] at hg; rw [← hg, h]
  | succ k => simp at hg

theorem CarriesAnswers.append {s : State} {fs gs : List Frame} (hf : CarriesAnswers s fs)
    (hg : CarriesAnswers (s.answered fs) gs) : CarriesAnswers s (fs ++ gs) := by
  intro k f h
  by_cases hk : k < fs.length
  · rw [List.getElem?_append_left hk] at h
    exact hf k f h
  · rw [List.getElem?_append_right (by omega)] at h
    rw [hg _ f h, State.answer_answered]
    congr 1
    omega

/-- Lists of frames one after another, each carrying the answers left when it is issued. -/
theorem carriesAnswers_flatten {s : State} {fss : List (List Frame)}
    (h : ∀ j fs, fss[j]? = some fs → CarriesAnswers (s.answered (fss.take j).flatten) fs) :
    CarriesAnswers s fss.flatten := by
  induction fss generalizing s with
  | nil => exact carriesAnswers_nil s
  | cons fs fss ih =>
    refine CarriesAnswers.append (by simpa using h 0 fs rfl) (ih fun j gs hj => ?_)
    simpa using h (j + 1) gs (by simpa using hj)

theorem carriesAnswers_of_waited {s : State} {cmd : Byte} {arg : Option Byte} {S : Byte}
    {fs : List Frame} (h : Waited s cmd arg S fs) : CarriesAnswers s fs :=
  waited_reply h

theorem carriesAnswers_of_readByteDone {s : State} {d : Byte} {fs : List Frame}
    (h : ReadByteDone s d fs) : CarriesAnswers s fs := by
  obtain ⟨S, ws, hw, -, rfl⟩ := h
  exact (carriesAnswers_of_waited hw).append
    (carriesAnswers_singleton (State.answer_answered s ws 0).symm)

theorem carriesAnswers_of_touchByteDone {s : State} {v b : Byte} {fs : List Frame}
    (h : TouchByteDone s v b fs) : CarriesAnswers s fs := by
  rcases h with ⟨-, hr⟩ | ⟨-, -, S, hw⟩
  · exact carriesAnswers_of_readByteDone hr
  · exact carriesAnswers_of_waited hw

theorem carriesAnswers_of_configWritten {s : State} {c : BitVec 4} {ok : Bool} {fs : List Frame}
    (h : ConfigWritten s c ok fs) : CarriesAnswers s fs := by
  rcases h with ⟨-, -, rfl⟩ | ⟨-, -, rfl⟩
  · exact carriesAnswers_singleton rfl
  · have hreset (f : Frame) : (resetFrame s 1).reply = (s.answered [f]).answer 0 :=
      (State.answer_answered s [f] 0).symm
    exact (carriesAnswers_singleton rfl).append (carriesAnswers_singleton (hreset _))

/-! ### What a pass can do (44_search.md R150) -/

/-- t is s but for the registers a pass writes: SHORT, the Search State, CRC8 and ROM. -/
def SearchWritten (s t : State) : Prop :=
  t = { s with
    short := t.short, ld := t.ld, lfd := t.lfd, ldf := t.ldf, crc8 := t.crc8, rom := t.rom,
    romSet := t.romSet }

theorem SearchWritten.trans {s t u : State} (h : SearchWritten s t) (h' : SearchWritten t u) :
    SearchWritten s u := by
  unfold SearchWritten at *
  rw [h] at h'
  exact h'

theorem searchWritten_searchStateReset (s : State) : SearchWritten s (searchStateReset s) := rfl

theorem searchWritten_recordSuccess (c : Cursor) (s : State) :
    SearchWritten s (recordSuccess c s) := by
  rw [recordSuccess_eq]
  rfl

theorem PassFrom.searchWritten {s t : State} {fs : List Frame} (h : PassFrom s fs t) :
    SearchWritten (s.answered fs) t := by
  rw [h]
  rfl

theorem PassFrom.ldf {s t : State} {fs : List Frame} (h : PassFrom s fs t) : t.ldf = s.ldf := by
  rw [h]
  rfl

theorem SearchWritten.complete {s u : State} {fs : List Frame} (v : Byte)
    (h : SearchWritten ((accept s).answered fs) u) :
    SearchWritten (completed s fs v) (complete v u) := by
  unfold SearchWritten at h
  rw [h, complete_eq rfl]
  rfl

/-- How the Search State stands in t when a search that began in s has ended: as it was, after the
LastDeviceFlag exit (44_search.md R151); reset (R148, R159); or with an identifier recorded (R157). -/
inductive PassEnd (s t : State) : Prop where
  | kept (hflag : s.ldf = true) (hldf : t.ldf = s.ldf) (hld : t.ld = s.ld) (hlfd : t.lfd = s.lfd)
      (hcrc : t.crc8 = s.crc8) (hrom : t.rom = s.rom) (hset : t.romSet = s.romSet)
  | reset (hldf : t.ldf = false) (hld : t.ld = 0) (hlfd : t.lfd = 0) (hcrc : t.crc8 = 0x00)
  | recorded (hldf : 0 < t.ld.toNat → t.ldf = false) (hld : t.ld.toNat ≤ 64)
      (hlfd : s.lfd.toNat ≤ 8 → t.lfd.toNat ≤ 8) (hcrc : t.crc8 = 0x00) (hrom : RomAccepted t)

theorem passEnd_searchStateReset (s t : State) : PassEnd s (searchStateReset t) :=
  .reset rfl rfl rfl rfl

/-- A search that began with the Search State reset has not taken the LastDeviceFlag exit. -/
theorem PassEnd.of_searchStateReset {s t : State} (h : PassEnd (searchStateReset s) t) :
    PassEnd s t := by
  cases h with
  | kept hflag => cases hflag
  | reset hldf hld hlfd hcrc => exact .reset hldf hld hlfd hcrc
  | recorded hldf hld hlfd hcrc hrom =>
    exact .recorded hldf hld (fun _ => hlfd (Nat.zero_le 8)) hcrc hrom

/-- ROM after a loop that processed 64 bits and left CRC8 zero is an identifier a pass accepts. -/
theorem romAccepted_of_bits {s : State} (hset : ∀ q, 1 ≤ q → q < 65 → s.romBitSet q = true)
    (hcrc : CrcBefore s 65) (hzero : s.crc8 = 0x00) (hfamily : s.romByte 0 ≠ 0x00) :
    RomAccepted s :=
  ⟨fun i hi => State.romSetByte_eq_ones s i fun k hk => hset _ (by omega) (by omega),
    by rw [← crc8_of_crcBefore hcrc, hzero], hfamily⟩

theorem passEnd_recordSuccess {s t : State} {c : Cursor} (hldf : t.ldf = false)
    (hz : c.lastZero ≤ 64) (hlfd : s.lfd.toNat ≤ 8 → t.lfd.toNat ≤ 8) (hcrc : t.crc8 = 0x00)
    (hrom : RomAccepted t) : PassEnd s (recordSuccess c t) := by
  rw [recordSuccess_eq]
  have hmod : c.lastZero % 2 ^ 7 = c.lastZero := Nat.mod_eq_of_lt (by omega)
  refine .recorded (fun hpos => ?_) ?_ hlfd hcrc hrom
  · rw [BitVec.toNat_ofNat, hmod] at hpos
    exact (if_neg (by omega)).trans hldf
  · rw [BitVec.toNat_ofNat, hmod]
    exact hz

/-- The loop of a pass and its end (44_search.md R150, R157, R159), from the state s the loop starts in. -/
theorem finishPass_searchLoop_spec (s : State) (hcrc : CrcBefore s 1) (hldf : s.ldf = false) :
    ∃ fs, CarriesAnswers s fs ∧
      SearchWritten (s.answered fs) (finishPass (searchLoop 64 Cursor.start s).1
        (searchLoop 64 Cursor.start s).2).2 ∧
      PassEnd s (finishPass (searchLoop 64 Cursor.start s).1 (searchLoop 64 Cursor.start s).2).2 := by
  obtain ⟨fs, hpass, -, -, hreply, -, -, hz, hlfd, hcrc', hset⟩ :=
    searchLoop_spec 64 Cursor.start s (le_refl 1) (le_refl 65) hcrc
  generalize searchLoop 64 Cursor.start s = r at *
  obtain ⟨c, t⟩ := r
  dsimp only at *
  refine ⟨fs, hreply, ?_⟩
  rcases finishPass_cases c t with ⟨h65, hzero, hfamily, he⟩ | ⟨-, he⟩
  · rw [he]
    refine ⟨hpass.searchWritten.trans (searchWritten_recordSuccess c t),
      passEnd_recordSuccess (hpass.ldf.trans hldf) ?_ hlfd hzero ?_⟩
    · simp only [Cursor.start] at hz
      omega
    · simp only [h65] at hcrc' hset
      exact romAccepted_of_bits (fun q h1 h2 => hset q h1 (.inr ⟨h1, h2⟩)) hcrc' hzero hfamily
  · rw [he]
    exact ⟨hpass.searchWritten.trans (searchWritten_searchStateReset t), passEnd_searchStateReset s t⟩

/-- Everything a pass can do: frames that carry the answers, writes of its own registers only, and one of
three ends. -/
theorem search_spec (rc : Byte) (s : State) :
    ∃ fs, CarriesAnswers s fs ∧ SearchWritten (s.answered fs) (search rc s).2 ∧
      PassEnd s (search rc s).2 := by
  rcases search_cases rc s with ⟨hldf, he⟩ | ⟨hldf, S, fs, hw, ⟨-, he⟩ | ⟨-, T, gs, hg, he⟩⟩
  · rw [he]
    refine ⟨[], carriesAnswers_nil s, ?_⟩
    rw [State.answered_nil]
    cases s.params.ldfExitResets
    · exact ⟨rfl, .kept hldf rfl rfl rfl rfl rfl rfl⟩
    · exact ⟨searchWritten_searchStateReset s, passEnd_searchStateReset s s⟩
  · rw [he]
    exact ⟨fs, carriesAnswers_of_waited hw, rfl, passEnd_searchStateReset s _⟩
  · obtain ⟨hs, hreply, hwritten, hend⟩ :=
      finishPass_searchLoop_spec (passStart s S fs gs) (crcBefore_passStart s S fs gs) hldf
    rw [he]
    refine ⟨fs ++ gs ++ hs, ?_, ?_, ?_⟩
    · refine ((carriesAnswers_of_waited hw).append (carriesAnswers_of_waited hg)).append ?_
      intro k f hf
      rw [hreply k f hf, passStart_answer, State.answer_answered, List.length_append]
    · rw [← State.answered_answered]
      have hstart : SearchWritten ((s.answered (fs ++ gs)).answered hs)
          ((passStart s S fs gs).answered hs) := rfl
      exact hstart.trans hwritten
    · cases hend with
      | kept hflag => exact absurd (hldf.symm.trans hflag) Bool.false_ne_true
      | reset hldf hld hlfd hcrc => exact .reset hldf hld hlfd hcrc
      | recorded hldf hld hlfd hcrc hrom => exact .recorded hldf hld hlfd hcrc hrom

end Sys2Proof.Machine
end

section
/-! What an instruction can do, said once: the state in which it completes, as the frames it issued and the
registers it wrote (10_state.md R22, R26, R28, R35). -/

namespace Sys2Proof.Machine

/-- The operations that write the bridge's configuration (10_state.md R26). -/
def ConfigWriter (i : Instr) : Prop :=
  i = .detect ∨ (∃ c, i = .writeConfig c) ∨ (∃ l, i = .setLevel l) ∨ (∃ b, i = .writeBitPower b) ∨
    ∃ v, i = .writeBytePower v

/-- The state t in which the instruction i can complete when it began in s and issued the frames fs. -/
inductive Effect (s : State) (fs : List Frame) : Instr → State → Prop where
  /-- A bridge row by itself (41_bridge.md R102, R103). -/
  | row {i : Instr} (hi : i.isOperation = false) : Effect s fs i (s.answered fs)
  /-- An operation that writes no register but RESULT and HSR. -/
  | plain {i : Instr} (v : Byte) : Effect s fs i (completed s fs v)
  /-- A configuration write on its matching echo (41_bridge.md R110). -/
  | config {i : Instr} (v : Byte) (c : BitVec 4) (hi : ConfigWriter i) :
      Effect s fs i { completed s fs v with cfg := c }
  /-- BUS_RESET (42_bus.md R119). -/
  | busReset (v : Byte) (b : Bool) : Effect s fs .busReset { completed s fs v with short := b }
  /-- CRC_CLEAR (43_crc.md R140). -/
  | crcClear (v : Byte) : Effect s fs .crcClear { completed s fs v with crc8 := 0x00 }
  /-- CRC_UPDATE (43_crc.md R141). -/
  | crcUpdate (w v c : Byte) : Effect s fs (.crcUpdate w) { completed s fs v with crc8 := c }
  /-- BLOCK of bytes that have all been set (42_bus.md R130). -/
  | block (n : BitVec 9) (v : Byte) (bs : List Byte) (hlen : bs.length = n.toNat)
      (hset : ∀ j < n.toNat, (s.bufByte j).isSome = true) :
      Effect s fs (.block n) { completed s fs v with buf := bufWrites s.buf 0 bs }
  /-- A search operation (44_search.md R160 to R163). -/
  | search {i : Instr} {t : State} (v : Byte) (hi : i.isSearch = true)
      (hwritten : SearchWritten (completed s fs v) t) (hend : PassEnd s t) : Effect s fs i t

/-- The instruction completes in a state of its `Effect`, its frames carrying the answers. -/
def Completes (i : Instr) (s : State) : Prop :=
  ∃ fs t, CarriesAnswers s fs ∧ Effect s fs i t ∧ exec i s = .next t

section
variable {i : Instr} {s : State} {body : State → Byte × State} {v : Byte} {fs : List Frame}

theorem completes_of_answered (hexec : exec i s = operate body s) (hfs : CarriesAnswers s fs)
    (h : body (accept s) = (v, (accept s).answered fs)) : Completes i s :=
  ⟨fs, _, hfs, .plain v, hexec.trans (operate_answered h)⟩

theorem completes_of_setCfg {c : BitVec 4} (hexec : exec i s = operate body s) (hi : ConfigWriter i)
    (hfs : CarriesAnswers s fs) (h : body (accept s) = (v, ((accept s).answered fs).setCfg c)) :
    Completes i s :=
  ⟨fs, _, hfs, .config v c hi, hexec.trans (operate_setCfg h)⟩

end

/-- A bridge row by itself is one frame. -/
theorem completes_of_command {i : Instr} {s : State} {cmd : Byte} {arg : Option Byte}
    (hi : i.isOperation = false) (hexec : exec i s = .next (command cmd arg s).2) : Completes i s :=
  ⟨_, _, carriesAnswers_singleton rfl, .row hi, hexec⟩

theorem completes_bridgeReset (s : State) : Completes .bridgeReset s :=
  completes_of_answered (fs := [resetFrame s 0]) (exec_bridgeReset s) (carriesAnswers_singleton rfl) rfl

theorem completes_writeConfig (c : BitVec 4) (s : State) : Completes (.writeConfig c) s := by
  obtain ⟨ok, fs, hc, he⟩ := writeConfigSeq_spec c (accept s)
  have hfs : CarriesAnswers s fs := carriesAnswers_of_configWritten hc
  cases ok with
  | false => exact completes_of_answered (exec_writeConfig s c) hfs (by simp only [he]; rfl)
  | true =>
    have hi : ConfigWriter (.writeConfig c) := .inr (.inl ⟨c, rfl⟩)
    exact completes_of_setCfg (exec_writeConfig s c) hi hfs (by simp only [he]; rfl)

/-- DETECT: a failed reset ends it; otherwise the default configuration is written (41_bridge.md R112). -/
theorem completes_detect (s : State) : Completes .detect s := by
  have hreset : CarriesAnswers s [resetFrame s 0] := carriesAnswers_singleton rfl
  obtain ⟨ack, hseq⟩ : ∃ ack, bridgeResetSeq (accept s) = (ack, (accept s).answered [resetFrame s 0]) :=
    ⟨_, rfl⟩
  cases ack with
  | false => exact completes_of_answered (exec_detect s) hreset (by simp only [hseq]; rfl)
  | true =>
    obtain ⟨ok, fs, hc, he⟩ := writeConfigSeq_spec detectConfig ((accept s).answered [resetFrame s 0])
    have hfs := hreset.append (carriesAnswers_of_configWritten hc)
    rw [State.answered_answered] at he
    cases ok with
    | false => exact completes_of_answered (exec_detect s) hfs (by simp only [hseq, he]; rfl)
    | true => exact completes_of_setCfg (exec_detect s) (.inl rfl) hfs (by simp only [hseq, he]; rfl)

theorem completes_busReset (s : State) : Completes .busReset s := by
  obtain ⟨S, fs, hw, he⟩ := busResetSeq_spec (accept s)
  refine ⟨fs, _, carriesAnswers_of_waited hw, .busReset (bitByte (stPresence S)) (stShort S), ?_⟩
  rw [exec_busReset, execBusReset, operate_of_eq (by simp only [he]; rfl), complete_eq rfl]
  rfl

theorem completes_touchBit (b : Bool) (s : State) : Completes (.touchBit b) s := by
  obtain ⟨S, fs, hw, he⟩ := touchBitSeq_spec b (accept s)
  exact completes_of_answered (exec_touchBit s b) (carriesAnswers_of_waited hw) (by simp only [he]; rfl)

theorem completes_writeBit (b : Bool) (s : State) : Completes (.writeBit b) s := by
  obtain ⟨S, fs, hw, he⟩ := touchBitSeq_spec b (accept s)
  exact completes_of_answered (exec_writeBit s b) (carriesAnswers_of_waited hw) (by simp only [he]; rfl)

theorem completes_readBit (s : State) : Completes .readBit s := by
  obtain ⟨S, fs, hw, he⟩ := touchBitSeq_spec true (accept s)
  exact completes_of_answered (exec_readBit s) (carriesAnswers_of_waited hw) (by simp only [he]; rfl)

theorem completes_writeByte (w : Byte) (s : State) : Completes (.writeByte w) s := by
  obtain ⟨S, fs, hw, he⟩ := writeByteSeq_spec w (accept s)
  exact completes_of_answered (exec_writeByte s w) (carriesAnswers_of_waited hw) (by simp only [he]; rfl)

theorem completes_readByte (s : State) : Completes .readByte s := by
  obtain ⟨d, fs, hd, he⟩ := readByteSeq_spec (accept s)
  exact completes_of_answered (exec_readByte s) (carriesAnswers_of_readByteDone hd) he

theorem completes_touchByte (w : Byte) (s : State) : Completes (.touchByte w) s := by
  obtain ⟨b, fs, hd, he⟩ := touchByteSeq_spec w (accept s)
  exact completes_of_answered (exec_touchByte s w) (carriesAnswers_of_touchByteDone hd) he

theorem completes_triplet (d : Bool) (s : State) : Completes (.triplet d) s := by
  obtain ⟨S, fs, hw, he⟩ := commandWait_cases s.params.cmd1wt (some (bitArg d)) (accept s)
  exact completes_of_answered (exec_triplet s d) (carriesAnswers_of_waited hw) he

theorem completes_setLevel (l : Level) (s : State) : Completes (.setLevel l) s := by
  cases l with
  | strong =>
    exact completes_of_answered (exec_setLevel s _) (carriesAnswers_nil s)
      (by rw [State.answered_nil]; rfl)
  | standard =>
    obtain ⟨ok, fs, hc, he⟩ := setLevelSeq_standard (accept s)
    have hfs : CarriesAnswers s fs := carriesAnswers_of_configWritten hc
    cases ok with
    | false => exact completes_of_answered (exec_setLevel s _) hfs he
    | true =>
      have hi : ConfigWriter (.setLevel .standard) := .inr (.inr (.inl ⟨_, rfl⟩))
      exact completes_of_setCfg (exec_setLevel s _) hi hfs he

/-- WRITE_BYTE_POWER: the byte is written only after the configuration (42_bus.md R133). -/
theorem completes_writeBytePower (w : Byte) (s : State) : Completes (.writeBytePower w) s := by
  obtain ⟨ok, fs, hc, he⟩ := writeConfigSeq_spec (withStrongPullup s.cfg) (accept s)
  have hfs : CarriesAnswers s fs := carriesAnswers_of_configWritten hc
  have hi : ConfigWriter (.writeBytePower w) := .inr (.inr (.inr (.inr ⟨w, rfl⟩)))
  cases ok with
  | false => exact completes_of_answered (exec_writeBytePower s w) hfs (by simp only [accept_cfg, he]; rfl)
  | true =>
    obtain ⟨S, gs, hw, hb⟩ :=
      writeByteSeq_spec w (((accept s).answered fs).setCfg (withStrongPullup s.cfg))
    rw [State.setCfg_answered, State.answered_answered] at hb
    exact completes_of_setCfg (exec_writeBytePower s w) hi (hfs.append (carriesAnswers_of_waited hw))
      (by simp only [accept_cfg, he, if_true, hb]; rfl)

/-- WRITE_BIT_POWER: the bit is exchanged only after the configuration was written, and another bit than
the expected one is followed by SET_LEVEL STANDARD (42_bus.md R132). -/
theorem completes_writeBitPower (b : Bool) (s : State) : Completes (.writeBitPower b) s := by
  obtain ⟨ok, fs, hc, he⟩ := writeConfigSeq_spec (withStrongPullup s.cfg) (accept s)
  have hfs : CarriesAnswers s fs := carriesAnswers_of_configWritten hc
  have hi : ConfigWriter (.writeBitPower b) := .inr (.inr (.inr (.inl ⟨b, rfl⟩)))
  cases ok with
  | false => exact completes_of_answered (exec_writeBitPower s b) hfs (by simp only [accept_cfg, he]; rfl)
  | true =>
    obtain ⟨S, gs, hw, ht⟩ := touchBitSeq_spec s.params.wbpSendBit
      (((accept s).answered fs).setCfg (withStrongPullup s.cfg))
    rw [State.setCfg_answered, State.answered_answered] at ht
    have hgs := hfs.append (carriesAnswers_of_waited hw)
    by_cases hb : stSingleBit S = b
    · exact completes_of_setCfg (exec_writeBitPower s b) hi hgs
        (by simp only [accept_cfg, he, if_true, accept_params, ht, hb]; rfl)
    · obtain ⟨ok', hs, hc', hl⟩ := setLevelSeq_standard
        (((accept s).answered (fs ++ gs)).setCfg (withStrongPullup s.cfg))
      rw [State.setCfg_answered, State.answered_answered] at hl
      have hhs := hgs.append (carriesAnswers_of_configWritten hc')
      cases ok' <;>
        exact completes_of_setCfg (exec_writeBitPower s b) hi hhs
          (by simp only [accept_cfg, he, if_true, accept_params, ht, hb, if_false, hl]; rfl)

theorem completes_crcClear (s : State) : Completes .crcClear s := by
  refine ⟨[], _, carriesAnswers_nil s, .crcClear 0x00, ?_⟩
  rw [exec_crcClear, execCrcClear, operate_of_eq (v := 0x00) (t := (accept s).setCrc8 0x00) rfl,
    complete_eq rfl, completed, State.answered_nil]
  rfl

theorem completes_crcUpdate (w : Byte) (s : State) : Completes (.crcUpdate w) s := by
  set c := crcEntry (s.crc8 ^^^ w)
  refine ⟨[], _, carriesAnswers_nil s, .crcUpdate w c c, ?_⟩
  rw [exec_crcUpdate, execCrcUpdate, operate_of_eq (body := crcStep w) rfl, complete_eq rfl, completed,
    State.answered_nil]
  rfl

theorem completes_block (n : BitVec 9) (s : State)
    (hset : ∀ j < n.toNat, (s.bufByte j).isSome = true) : Completes (.block n) s := by
  obtain ⟨bs, fss, hbs, hfss, he, htouch⟩ := blockLoop_spec n.toNat 0 (accept s) (by simpa using hset)
  refine ⟨fss.flatten, _, carriesAnswers_flatten fun j fs hj => ?_, .block n 0x00 bs hbs hset, ?_⟩
  · have hlt : j < bs.length := by
      have := (List.getElem?_eq_some_iff.mp hj).1
      omega
    obtain ⟨v, -, hdone⟩ := htouch j bs[j] fs (List.getElem?_eq_getElem hlt) hj
    exact carriesAnswers_of_touchByteDone hdone
  · simp only [exec_block, execBlock, operateOrFault, he]
    rw [complete_eq rfl]
    rfl

theorem PassEnd.complete {s u : State} (v : Byte) (h : PassEnd (accept s) u) :
    PassEnd s (complete v u) := by
  cases h with
  | kept hflag hldf hld hlfd hcrc hrom hset => exact .kept hflag hldf hld hlfd hcrc hrom hset
  | reset hldf hld hlfd hcrc => exact .reset hldf hld hlfd hcrc
  | recorded hldf hld hlfd hcrc hrom => exact .recorded hldf hld hlfd hcrc hrom

/-- A search operation is a pass, on the accepted state or with the Search State reset first. -/
theorem exec_search_spec {i : Instr} (hi : i.isSearch = true) (s : State) :
    ∃ fs v t, CarriesAnswers s fs ∧ SearchWritten (completed s fs v) t ∧ PassEnd s t ∧
      exec i s = .next t := by
  obtain ⟨rc, s0, hs0, hexec⟩ := exec_search hi s
  obtain ⟨fs, hfs, hwritten, hend⟩ := search_spec rc s0
  refine ⟨fs, _, _, ?_, SearchWritten.complete _ ?_, PassEnd.complete _ ?_, hexec⟩
  · rcases hs0 with rfl | rfl <;> exact hfs
  · rcases hs0 with rfl | rfl
    · exact hwritten
    · exact (searchWritten_searchStateReset ((accept s).answered fs)).trans hwritten
  · rcases hs0 with rfl | rfl
    · exact hend
    · exact hend.of_searchStateReset

theorem passEnd_of_isSearch {i : Instr} (hi : i.isSearch = true) {s t : State}
    (h : exec i s = .next t) : PassEnd s t := by
  obtain ⟨-, -, t', -, -, hend, he⟩ := exec_search_spec hi s
  rw [h, Host.Outcome.next.injEq] at he
  exact he ▸ hend

theorem completes_search {i : Instr} (hi : i.isSearch = true) (s : State) : Completes i s := by
  obtain ⟨fs, v, t, hfs, hwritten, hend, hexec⟩ := exec_search_spec hi s
  exact ⟨fs, t, hfs, .search v hi hwritten hend, hexec⟩

/-- BLOCK faults at the first byte that has not been set. -/
theorem exec_block_of_unset {s : State} {n : BitVec 9} (h : ∃ j < n.toNat, s.bufByte j = none) :
    ∃ k < n.toNat, exec (.block n) s = .fault (.bufByteUnset k) ∧ s.bufByte k = none ∧
      ∀ j < k, (s.bufByte j).isSome = true := by
  obtain ⟨k, he, -, hk, hnone, hset⟩ := blockLoop_fault n.toNat 0 (accept s) (by simpa using h)
  refine ⟨k, by omega, ?_, hnone, fun j hj => hset j (Nat.zero_le j) hj⟩
  simp only [exec_block, execBlock, operateOrFault, he]

/-- A BLOCK that completes has had all its bytes set. -/
theorem bufByte_isSome_of_exec_block {s t : State} {n : BitVec 9} (h : exec (.block n) s = .next t) :
    ∀ j < n.toNat, (s.bufByte j).isSome = true := by
  by_contra hunset
  push Not at hunset
  obtain ⟨j, hj, hnone⟩ := hunset
  obtain ⟨k, -, hfault, -⟩ := exec_block_of_unset ⟨j, hj, by simpa using hnone⟩
  rw [hfault] at h
  cases h

/-- Every instruction that answers a next state completes in a state of its `Effect`. -/
theorem completes_of_exec {i : Instr} {s t : State} (h : exec i s = .next t) : Completes i s := by
  cases i with
  | bridgeReset => exact completes_bridgeReset s
  | detect => exact completes_detect s
  | writeConfig c => exact completes_writeConfig c s
  | busReset => exact completes_busReset s
  | touchBit b => exact completes_touchBit b s
  | writeBit b => exact completes_writeBit b s
  | readBit => exact completes_readBit s
  | writeByte v => exact completes_writeByte v s
  | readByte => exact completes_readByte s
  | touchByte v => exact completes_touchByte v s
  | block n => exact completes_block n s (bufByte_isSome_of_exec_block h)
  | setLevel l => exact completes_setLevel l s
  | writeBitPower b => exact completes_writeBitPower b s
  | writeBytePower v => exact completes_writeBytePower v s
  | crcClear => exact completes_crcClear s
  | crcUpdate v => exact completes_crcUpdate v s
  | searchFirst => exact completes_search rfl s
  | searchNext => exact completes_search rfl s
  | alarmFirst => exact completes_search rfl s
  | alarmNext => exact completes_search rfl s
  | triplet d => exact completes_triplet d s
  | bridgeDeviceReset => exact completes_of_command rfl rfl
  | bridgeWriteConfig c => exact completes_of_command rfl rfl
  | bridgeBusReset => exact completes_of_command rfl rfl
  | bridgeSingleBit b => exact completes_of_command rfl rfl
  | bridgeWriteByte v => exact completes_of_command rfl rfl
  | bridgeReadByte => exact completes_of_command rfl rfl
  | bridgeSetReadPointer => exact completes_of_command rfl rfl
  | bridgeTriplet d => exact completes_of_command rfl rfl
  | bridgeWriteByteWithPower => cases h

/-- What any instruction can do. -/
theorem exec_effect {i : Instr} {s t : State} (h : exec i s = .next t) :
    ∃ fs, CarriesAnswers s fs ∧ Effect s fs i t := by
  obtain ⟨fs, t', hfs, heffect, he⟩ := completes_of_exec h
  rw [h, Host.Outcome.next.injEq] at he
  exact ⟨fs, hfs, he ▸ heffect⟩

end Sys2Proof.Machine
end

section
/-! What every instruction and every step keeps of the state (10_state.md section 4), and the obligations of
the state. -/

namespace Sys2Proof.Machine

/-! ### What an effect leaves -/

section
variable {s t : State} {fs : List Frame} {i : Instr}

theorem Effect.hist (h : Effect s fs i t) : t.hist = s.hist ++ fs := by
  cases h with
  | search v hi hwritten hend => rw [hwritten]; rfl
  | _ => rfl

/-- The answers still to come are those not yet used. -/
theorem Effect.answer (h : Effect s fs i t) (k : Nat) : t.answer k = s.answer (fs.length + k) := by
  rw [← State.answer_answered]
  cases h with
  | search v hi hwritten hend => rw [hwritten]; rfl
  | _ => rfl

theorem PassEnd.crc8_eq_zero (h : PassEnd s t) (hs : s.crc8 = 0x00 ∨ s.ldf = false) :
    t.crc8 = 0x00 := by
  cases h with
  | kept hflag hldf hld hlfd hcrc =>
    rw [hflag] at hs
    exact hcrc.trans (hs.resolve_right Bool.noConfusion)
  | reset hldf hld hlfd hcrc => exact hcrc
  | recorded hldf hld hlfd hcrc => exact hcrc

end

/-! ### The invariant -/

/-- A search operation keeps the invariant: it touches neither the buffer nor, but for its end, the Search
State (44_search.md R157, R159). -/
theorem inv_of_search {s t : State} {fs : List Frame} {v : Byte} (hinv : Inv s)
    (hwritten : SearchWritten (completed s fs v) t) (hend : PassEnd s t) : Inv t := by
  have hhsr : t.hsr = 0x00 := by rw [hwritten]; rfl
  have hbuf : t.buf = s.buf := by rw [hwritten]; rfl
  have hparams : t.params = s.params := by rw [hwritten]; rfl
  have hwf : t.buf.wf = true := by rw [hbuf]; exact hinv.buf
  have hrange : bufInRange t.params t.buf = true := by rw [hbuf, hparams]; exact hinv.range
  cases hend with
  | kept hflag hldf hld hlfd hcrc hrom hset =>
    refine ⟨.inl hhsr, hld ▸ hinv.ld, hlfd ▸ hinv.lfd, ?_, ?_, hwf, hrange⟩
    · rw [hld, hldf]; exact hinv.flag
    · rw [hld, hldf]
      simpa only [RomAccepted, State.romSetByte, State.romByte, hrom, hset] using hinv.rom
  | reset hldf hld hlfd hcrc =>
    refine ⟨.inl hhsr, ?_, ?_, fun _ => hldf, ?_, hwf, hrange⟩
    · rw [hld]; exact Nat.zero_le 64
    · rw [hlfd]; exact Nat.zero_le 8
    · rw [hld, hldf]; simp
  | recorded hldf hld hlfd hcrc hrom =>
    exact ⟨.inl hhsr, hld, hlfd hinv.lfd, hldf, fun _ => hrom, hwf, hrange⟩

/-- Bytes stored within P_BUF_SIZE keep the buffer within P_BUF_SIZE bytes. -/
theorem bufInRange_bufWrites (P : Params) (m : Memory) (i : Nat) (bs : List Byte)
    (hm : bufInRange P m = true) (hbs : ∀ j < bs.length, inBuf P (bufAddr (i + j)) = true) :
    bufInRange P (bufWrites m i bs) = true := by
  induction bs generalizing m i with
  | nil => exact hm
  | cons b bs ih =>
    refine ih _ _ (bufInRange_write P m _ b hm (hbs 0 (Nat.succ_pos _))) fun j hj => ?_
    rw [show i + 1 + j = i + (j + 1) by omega]
    exact hbs (j + 1) (Nat.succ_lt_succ hj)

/-- Every instruction keeps the invariant. -/
theorem Effect.inv {s t : State} {fs : List Frame} {i : Instr} (h : Effect s fs i t) (hinv : Inv s) :
    Inv t := by
  cases h with
  | row => exact { hinv with }
  | search v hi hwritten hend => exact inv_of_search hinv hwritten hend
  | block n v bs hlen hset =>
    refine ⟨.inl rfl, hinv.ld, hinv.lfd, hinv.flag, hinv.rom, bufWrites_wf _ _ _ hinv.buf,
      bufInRange_bufWrites _ _ _ _ hinv.range fun j hj => ?_⟩
    obtain ⟨b, hb⟩ := Option.isSome_iff_exists.mp (hset j (hlen ▸ hj))
    rw [Nat.zero_add]
    exact inBuf_of_read _ _ _ b hinv.range hb
  | _ => exact { hinv with hsr := .inl rfl }

/-! ### What a step can do -/

/-- Everything a step that answers a next state can have done: wait, a host read, a host write, an illegal
request, or one instruction (20_memory.md R54, 60_exceptions.md R170). -/
inductive StepEffect (s : State) : State → Prop where
  | wait : StepEffect s s
  | read (a : Addr) (rest : List PortEvent) (hport : s.port = .memRead a 1 :: rest) :
      StepEffect s ((hostRead a (s.setPort rest)).2.setReadData (some (hostRead a (s.setPort rest)).1))
  | write (a : Addr) (v : Byte) (rest : List PortEvent) :
      StepEffect s (hostWrite a v (s.setPort rest))
  | illegal (rest : List PortEvent) : StepEffect s (raiseIllegalRequest (s.setPort rest))
  | instr (i : Instr) (rest : List PortEvent) (t : State) (hexec : exec i (s.setPort rest) = .next t) :
      StepEffect s t

theorem step_effect {s t : State} (h : step s = .next t) : StepEffect s t := by
  unfold step runPort at h
  split at h
  case h_1 => cases h; exact .wait
  case h_2 e rest hport =>
    split at h
    · cases h
    cases e with
    | issue req =>
      simp only [runEvent, runIssue] at h
      split at h
      · exact .instr _ rest t h
      · cases h; exact .illegal rest
    | memRead a n =>
      simp only [runEvent, runMemRead] at h
      split at h
      · next hn => subst hn; cases h; exact .read a rest hport
      · cases h
    | memWrite a n v =>
      simp only [runEvent, runMemWrite] at h
      split at h
      · cases h; exact .write a v rest
      · cases h
    | frame bytes =>
      simp only [runEvent, runFrame] at h
      split at h
      · exact .instr _ rest t h
      · cases h

/-- A host read leaves the state as it was but for the count of draws. -/
theorem hostRead_state (a : Addr) (s : State) : ∃ n, (hostRead a s).2 = s.setDraws n := by
  unfold hostRead
  split
  · exact ⟨s.draws, rfl⟩
  · exact ⟨s.draws + 1, rfl⟩

/-- A host write leaves the state as it was but for the buffer. -/
theorem hostWrite_state (a : Addr) (v : Byte) (s : State) : ∃ m, hostWrite a v s = s.setBuf m := by
  unfold hostWrite
  split
  · exact ⟨_, rfl⟩
  · exact ⟨s.buf, rfl⟩

theorem inv_setPort {s : State} (h : Inv s) (rest : List PortEvent) : Inv (s.setPort rest) :=
  { h with }

theorem inv_hostWrite {s : State} (h : Inv s) (a : Addr) (v : Byte) : Inv (hostWrite a v s) := by
  have hwf := hostWrite_wf a v s h.buf
  have hrange := hostWrite_inRange a v s h.range
  obtain ⟨m, hm⟩ := hostWrite_state a v s
  rw [hm] at hwf hrange ⊢
  exact { h with buf := hwf, range := hrange }

/-- Settles O49: each of the five things a step can do keeps the invariant. -/
theorem stepKeepsInvariant : Obligations.StepKeepsInvariant := by
  intro s t hinv hstep
  cases step_effect hstep with
  | wait => exact hinv
  | read a rest hport =>
    obtain ⟨n, hn⟩ := hostRead_state a (s.setPort rest)
    rw [hn]
    exact { hinv with }
  | write a v rest => exact inv_hostWrite (inv_setPort hinv rest) a v
  | illegal rest => exact { hinv with hsr := .inr rfl }
  | instr i rest t hexec =>
    obtain ⟨fs, -, heffect⟩ := exec_effect hexec
    exact heffect.inv (inv_setPort hinv rest)

/-- Settles O48: nothing of ROM counts as written and no byte is listed, and LD and LDF say so. -/
theorem invariantHoldsAtReset : Obligations.InvariantHoldsAtReset where
  hsr := .inl rfl
  ld := Nat.zero_le 64
  lfd := Nat.zero_le 8
  flag := fun _ => rfl
  rom := fun h => absurd h (by decide)
  buf := reset_buf_wf
  range := rfl

/-- Settles O1. -/
theorem resetHoldsSpecValues : Obligations.ResetHoldsSpecValues := by
  refine ⟨rfl, rfl, rfl, rfl, rfl, rfl, rfl, rfl, ?romSet, ?buf, rfl⟩
  case romSet => decide
  case buf => exact fun _ => rfl

/-- Settles O28: the loop of BLOCK stops at the first byte that has no value. -/
theorem blockFaultsOnUnsetByte : Obligations.BlockFaultsOnUnsetByte :=
  fun _ _ h => exec_block_of_unset h

/-- Settles O52: an instruction's frames carry the answers; any other step issues no frame, and only a host
read may move the answers to come. -/
theorem historyRecordsTheAnswers : Obligations.HistoryRecordsTheAnswers := by
  intro s t hstep
  cases step_effect hstep with
  | wait => exact ⟨[], by simp, carriesAnswers_nil s, fun k => .inl (by simp)⟩
  | read a rest hport =>
    obtain ⟨n, hn⟩ := hostRead_state a (s.setPort rest)
    exact ⟨[], by simp [hn], carriesAnswers_nil s, fun k => .inr ⟨rfl, a, 1, rest, hport⟩⟩
  | write a v rest =>
    obtain ⟨m, hm⟩ := hostWrite_state a v (s.setPort rest)
    exact ⟨[], by simp [hm], carriesAnswers_nil s, fun k => .inl (by simp [hm])⟩
  | illegal rest =>
    exact ⟨[], by simp [raiseIllegalRequest], carriesAnswers_nil s,
      fun k => .inl (by simp [raiseIllegalRequest])⟩
  | instr i rest t hexec =>
    obtain ⟨fs, hfs, heffect⟩ := exec_effect hexec
    exact ⟨fs, heffect.hist, hfs, fun k => .inl (heffect.answer k)⟩

/-- Settles O54: of the effects an instruction can have, only that of a search operation writes these
registers, and only CRC_CLEAR and CRC_UPDATE write CRC8 besides. -/
theorem searchStateHasOneWriter : Obligations.SearchStateHasOneWriter := by
  intro s t i hi hexec
  obtain ⟨fs, -, heffect⟩ := exec_effect hexec
  cases heffect with
  | search v hsearch => rw [hi] at hsearch; cases hsearch
  | crcClear v => exact ⟨rfl, rfl, rfl, rfl, rfl, .inr (.inl rfl)⟩
  | crcUpdate w v c => exact ⟨rfl, rfl, rfl, rfl, rfl, .inr (.inr ⟨w, rfl⟩)⟩
  | _ => exact ⟨rfl, rfl, rfl, rfl, rfl, .inl rfl⟩

/-- Settles O55: CRC_CLEAR and a search that runs leave CRC8 zero, and but for CRC_UPDATE nothing else
writes it. -/
theorem crc8StaysZeroWithoutCrcUpdate : Obligations.Crc8StaysZeroWithoutCrcUpdate := by
  intro s t i hexec
  refine ⟨fun hzero hi => ?_, fun hsearch hldf => ?_⟩
  · obtain ⟨fs, -, heffect⟩ := exec_effect hexec
    cases heffect with
    | search v hsearch hwritten hend => exact hend.crc8_eq_zero (.inl hzero)
    | crcUpdate w v c => exact absurd rfl (hi w)
    | crcClear v => rfl
    | _ => exact hzero
  · exact (passEnd_of_isSearch hsearch hexec).crc8_eq_zero (.inr hldf)

/-- Settles O56: each effect of an instruction writes at most one of the three, and names its writer. -/
theorem configShortAndBufHaveTheirWriters : Obligations.ConfigShortAndBufHaveTheirWriters := by
  intro s t i hexec
  obtain ⟨fs, -, heffect⟩ := exec_effect hexec
  cases heffect with
  | config v c hi => exact ⟨.inr hi, .inl rfl, .inl rfl⟩
  | busReset v b => exact ⟨.inl rfl, .inr (.inl rfl), .inl rfl⟩
  | block n v bs => exact ⟨.inl rfl, .inl rfl, .inr ⟨n, rfl⟩⟩
  | search v hsearch hwritten =>
    exact ⟨.inl (by rw [hwritten]; rfl), .inr (.inr hsearch), .inl (by rw [hwritten]; rfl)⟩
  | _ => exact ⟨.inl rfl, .inl rfl, .inl rfl⟩

end Sys2Proof.Machine
end

section
/-! The host register space (20_memory.md R54 to R57): what the map holds at each address, what a one-byte
host access does, and the obligations about host actions. -/

namespace Sys2Proof.Machine

/-! ### The map, address by address (20_memory.md R55) -/

theorem inBuf_iff {P : Params} {a : Nat} : inBuf P a = true ↔ 0x0100 ≤ a ∧ a < 0x0100 + P.bufSize := by
  simp [inBuf]

theorem inBuf_eq_false {P : Params} {a : Nat} (h : a ≤ 0x00FF ∨ 0x0100 + P.bufSize ≤ a) :
    inBuf P a = false := by
  rw [← Bool.not_eq_true, inBuf_iff]
  omega

section
variable (s : State)

theorem State.hostByte_result : s.hostByte 0x0000 = some s.result := rfl
theorem State.hostByte_hsr : s.hostByte 0x0001 = some (hsrRead s.hsr) := rfl
theorem State.hostByte_cfg : s.hostByte 0x0002 = some (s.cfg.zeroExtend 8) := rfl
theorem State.hostByte_short : s.hostByte 0x0003 = some (bitByte s.short) := rfl
theorem State.hostByte_ld : s.hostByte 0x0004 = some (s.ld.zeroExtend 8) := rfl
theorem State.hostByte_lfd : s.hostByte 0x0005 = some (s.lfd.zeroExtend 8) := rfl
theorem State.hostByte_ldf : s.hostByte 0x0006 = some (bitByte s.ldf) := rfl
theorem State.hostByte_crc8 : s.hostByte 0x0007 = some s.crc8 := rfl

/-- ROM[i] is fixed once all its bits have been written (10_state.md R49). -/
theorem State.hostByte_rom {i : Nat} (hi : i < 8) :
    s.hostByte (0x0008 + i) = if s.romSetByte i = 0xFF then some (s.romByte i) else none := by
  interval_cases i <;> rfl

theorem State.partialByte_rom {i : Nat} (hi : i < 8) :
    s.partialByte (0x0008 + i) = (s.romSetByte i, s.romByte i) := by
  interval_cases i <;> rfl

/-- Above ROM there are only buffer bytes and reserved addresses. -/
theorem State.hostByte_of_ge {a : Nat} (ha : 0x0010 ≤ a) :
    s.hostByte a = if inBuf s.params a then s.buf.read a else some 0x00 := by
  unfold State.hostByte
  repeat rw [if_neg (by omega)]

theorem State.hostByte_buf {i : Nat} (hi : i < s.params.bufSize) :
    s.hostByte (0x0100 + i) = s.bufByte i := by
  have hbuf : inBuf s.params (0x0100 + i) = true := inBuf_iff.mpr (by omega)
  rw [s.hostByte_of_ge (by omega), if_pos hbuf]
  rfl

theorem State.hostByte_reserved {a : Nat}
    (h : (0x0010 ≤ a ∧ a ≤ 0x00FF) ∨ 0x0100 + s.params.bufSize ≤ a) : s.hostByte a = some 0x00 := by
  have hbuf : inBuf s.params a = false := inBuf_eq_false (by omega)
  rw [s.hostByte_of_ge (by omega), hbuf]
  rfl

/-- The host's view of an address depends on the buffer only through the byte there. -/
theorem State.hostByte_setBuf {m : Memory} {a : Nat} (h : m.read a = s.buf.read a) :
    (s.setBuf m).hostByte a = s.hostByte a := by
  unfold State.hostByte
  rw [State.setBuf_buf, h]
  rfl

end

/-! ### One-byte host accesses (20_memory.md R56, R57) -/

theorem hostRead_of_hostByte {a : Addr} {s : State} {v : Byte} (h : s.hostByte a.toNat = some v) :
    hostRead a s = (v, s) := by
  simp only [hostRead, h]

/-- Where the map leaves bits open, a read returns the fixed ones and draws the others. -/
theorem hostRead_of_hostByte_none {a : Addr} {s : State} (h : s.hostByte a.toNat = none) :
    ∃ d, (hostRead a s).1 = ((s.partialByte a.toNat).2 &&& (s.partialByte a.toNat).1) |||
      (d &&& ~~~(s.partialByte a.toNat).1) :=
  ⟨Config.unsetByte s.draws, by simp only [hostRead, h]; rfl⟩

/-- The bits under a mask do not see what is drawn outside it. -/
theorem masked_or_drawn_and_mask (x d m : Byte) : ((x &&& m) ||| (d &&& ~~~m)) &&& m = x &&& m := by
  ext k hk
  simp only [BitVec.getElem_and, BitVec.getElem_or, BitVec.getElem_not]
  cases m[k] <;> simp

/-- A read of ROM[i] returns the written bits as they are, whatever is drawn for the others. -/
theorem hostRead_rom {a : Addr} {s : State} {i : Nat} (hi : i < 8) (ha : a.toNat = 0x0008 + i) :
    (hostRead a s).1 &&& s.romSetByte i = s.romByte i &&& s.romSetByte i := by
  by_cases hset : s.romSetByte i = 0xFF
  · have hbyte : s.hostByte a.toNat = some (s.romByte i) := by rw [ha, s.hostByte_rom hi, if_pos hset]
    rw [hostRead_of_hostByte hbyte]
  · have hbyte : s.hostByte a.toNat = none := by rw [ha, s.hostByte_rom hi, if_neg hset]
    obtain ⟨d, hd⟩ := hostRead_of_hostByte_none hbyte
    rw [hd, ha, s.partialByte_rom hi, masked_or_drawn_and_mask]

theorem hostWrite_of_inBuf {a : Addr} {v : Byte} {s : State} (h : inBuf s.params a.toNat = true) :
    hostWrite a v s = s.setBuf (s.buf.write a.toNat v) :=
  if_pos h

theorem hostWrite_of_not_inBuf {a : Addr} {v : Byte} {s : State}
    (h : inBuf s.params a.toNat = false) : hostWrite a v s = s := by
  simp only [hostWrite, h, Bool.false_eq_true, if_false]

section
variable {s : State} {a : Addr} {rest : List PortEvent}

theorem step_of_memRead (hfree : hsrBusy s.hsr = false) (hport : s.port = .memRead a 1 :: rest) :
    step s = .next ((hostRead a (s.setPort rest)).2.setReadData
      (some (hostRead a (s.setPort rest)).1)) :=
  step_of_port_cons hfree hport

theorem step_of_memWrite {v : Byte} (hfree : hsrBusy s.hsr = false)
    (hport : s.port = .memWrite a 1 v :: rest) : step s = .next (hostWrite a v (s.setPort rest)) :=
  step_of_port_cons hfree hport

end

/-- An event that hands over a code that decodes runs the instruction. -/
theorem runEvent_eventOfCode {s : State} {c : Code} {i : Instr} (h : decode s.params c = .ok i) :
    runEvent (eventOfCode c) s = exec i s := by
  cases c with
  | request req => simp only [eventOfCode, runEvent, runIssue, h]
  | frame bytes => simp only [eventOfCode, runEvent, runFrame, h]

/-! ### The obligations -/

/-- Settles O2: the step returns what `hostRead` returns, which is the byte of the map at every address
where the map fixes one. -/
theorem hostReadReturnsMap : Obligations.HostReadReturnsMap := by
  intro s rest a hfree hport
  obtain ⟨n, hn⟩ := hostRead_state a (s.setPort rest)
  have hread {k : Nat} {v : Byte} (ha : a.toNat = k) (h : s.hostByte k = some v) :
      (hostRead a (s.setPort rest)).1 = v :=
    congrArg Prod.fst (hostRead_of_hostByte (s := s.setPort rest) (ha ▸ h))
  have hextend {w k : Nat} {x : BitVec w} (hw : w ≤ 8) (ha : a.toNat = k)
      (h : s.hostByte k = some (x.zeroExtend 8)) : (hostRead a (s.setPort rest)).1.toNat = x.toNat := by
    rw [hread ha h, BitVec.toNat_setWidth_of_le hw]
  refine ⟨(hostRead a (s.setPort rest)).1, n, ?step, fun ha => hread ha s.hostByte_result,
    fun ha => hread ha s.hostByte_hsr, fun ha => hextend (by decide) ha s.hostByte_cfg,
    fun ha => hread ha s.hostByte_short, fun ha => hextend (by decide) ha s.hostByte_ld,
    fun ha => hextend (by decide) ha s.hostByte_lfd, fun ha => hread ha s.hostByte_ldf,
    fun ha => hread ha s.hostByte_crc8, fun i hi ha => hostRead_rom (s := s.setPort rest) hi ha,
    fun i hi ha b hb => hread ha ((s.hostByte_buf hi).trans hb)⟩
  case step =>
    rw [step_of_memRead hfree hport, hn]
    rfl

/-- Settles O3: the write stores at the address of BUF[i], and a read of any other address does not see
it. -/
theorem hostWriteStoresBufByte : Obligations.HostWriteStoresBufByte := by
  intro s rest a v i hfree hport hi ha
  have hbuf : inBuf (s.setPort rest).params a.toNat = true :=
    inBuf_iff.mpr ⟨by omega, by rw [State.setPort_params]; omega⟩
  refine ⟨(s.setPort rest).setBuf (s.buf.write a.toNat v), ?step, rfl, ?stored, fun b hb => ?others⟩
  case step => rw [step_of_memWrite hfree hport, hostWrite_of_inBuf hbuf]; rfl
  case stored => rw [ha]; exact (Memory.read_write _ _ _ _).trans (if_pos rfl)
  case others =>
    exact (s.setPort rest).hostByte_setBuf ((Memory.read_write _ _ _ _).trans (if_neg hb))

/-- Settles O4: the map holds 0x00 at a reserved address, and a write reaches only buffer bytes. -/
theorem reservedAndReadOnlyAreInert : Obligations.ReservedAndReadOnlyAreInert := by
  intro s rest a hfree
  refine ⟨fun ha hport => ?read, fun v ha hport => ?write⟩
  case read =>
    have hzero : (s.setPort rest).hostByte a.toNat = some 0x00 := State.hostByte_reserved _ ha
    rw [step_of_memRead hfree hport, hostRead_of_hostByte hzero]
    rfl
  case write =>
    have hout : inBuf (s.setPort rest).params a.toNat = false := inBuf_eq_false ha
    rw [step_of_memWrite hfree hport, hostWrite_of_not_inBuf hout]
    rfl

/-- Settles O7: the next action is taken from the port and handed to the decoder. -/
theorem stepRunsDecodedInstruction : Obligations.StepRunsDecodedInstruction := by
  intro s c i rest hfree hport hdecode
  exact (step_of_port_cons hfree hport).trans
    (runEvent_eventOfCode (s := s.setPort rest) hdecode)

end Sys2Proof.Machine
end

section
/-! The request encoding (30_encoding.md section 1): what the decoder accepts, that every row of the operation
map encodes what it decodes, and the obligations about request words. -/

namespace Sys2Proof.Machine

/-! ### The decoder -/

/-- A request word decodes exactly when it passes the four checks of 30_encoding.md R80. -/
theorem decodeRequest_eq_ok_iff {P : Params} {req : Word} {i : Instr} :
    decodeRequest P req = .ok i ↔ rsvField req = 0 ∧ ∃ form,
      operationMap.lookup (opField req) = some form ∧
      form.operation (argField req) (lenField req) = some i ∧
      form.lengthOk P (lenField req) = true := by
  unfold decodeRequest
  by_cases hrsv : rsvField req = 0
  case neg => rw [if_pos hrsv]; simp only [hrsv, false_and, reduceCtorEq]
  cases hform : operationMap.lookup (opField req) with
  | none => simp [hrsv]
  | some form =>
    cases hop : form.operation (argField req) (lenField req) with
    | none => simp [hrsv, hop]
    | some j => cases hlen : form.lengthOk P (lenField req) <;> simp [hrsv, hop, hlen]

/-- A word made of fields that pass the checks decodes. -/
theorem decodeRequest_requestWord {P : Params} {op arg : Byte} {len : BitVec 9} {form : OperandForm}
    {i : Instr} (hform : operationMap.lookup op = some form) (hop : form.operation arg len = some i)
    (hlen : form.lengthOk P len = true) : decodeRequest P (requestWord op arg len) = .ok i :=
  decodeRequest_eq_ok_iff.mpr ⟨rsvField_requestWord op arg len, form, by
    simpa only [opField_requestWord, argField_requestWord, lenField_requestWord] using
      ⟨hform, hop, hlen⟩⟩

section
variable (len : BitVec 9)

theorem operation_bitByte (f : Bool → Instr) (b : Bool) :
    (OperandForm.bit f).operation (bitByte b) len = some (f b) :=
  congrArg (Option.map f) (bitOperand_bitByte b)

theorem operation_zeroExtend (f : BitVec 4 → Instr) (c : BitVec 4) :
    (OperandForm.nibble f).operation (c.zeroExtend 8) len = some (f c) :=
  congrArg (Option.map f) (nibbleOperand_zeroExtend c)

theorem operation_levelByte (f : Level → Instr) (l : Level) :
    (OperandForm.level f).operation (levelByte l) len = some (f l) :=
  congrArg (Option.map f) (levelOperand_levelByte l)

end

/-- Settles O9: each operation's row of the map reads its operand back from the field the encoder put it
in. -/
theorem operationDecodesFromItsEncoding : Obligations.OperationDecodesFromItsEncoding := by
  intro P i hi hwf
  cases i with
  | bridgeReset | detect | busReset | readBit | readByte | crcClear | searchFirst | searchNext
  | alarmFirst | alarmNext => exact decodeRequest_requestWord rfl rfl rfl
  | touchBit b | writeBit b | writeBitPower b | triplet b =>
    exact decodeRequest_requestWord rfl (operation_bitByte 0 _ b) rfl
  | writeByte v | touchByte v | writeBytePower v | crcUpdate v =>
    exact decodeRequest_requestWord rfl rfl rfl
  | writeConfig c => exact decodeRequest_requestWord rfl (operation_zeroExtend 0 _ c) rfl
  | setLevel l => exact decodeRequest_requestWord rfl (operation_levelByte 0 _ l) rfl
  | block n => exact decodeRequest_requestWord rfl rfl hwf
  | _ => cases hi

/-! ### The rows of the operation map (30_encoding.md R79) -/

/-- The instruction is an operation of the block whose request word has these fields. -/
def EncodesAs (P : Params) (i : Instr) (op arg : Byte) (len : BitVec 9) : Prop :=
  i.isOperation = true ∧ WellFormed P i ∧ encode P i = .request (requestWord op arg len)

/-- Every operation the form makes of fields it admits is encoded with these fields, under the OP value. -/
def RowEncodes (P : Params) (op : Byte) (form : OperandForm) : Prop :=
  ∀ (arg : Byte) (len : BitVec 9) (i : Instr), form.operation arg len = some i →
    form.lengthOk P len = true → EncodesAs P i op arg len

section
variable {P : Params} {op : Byte}

theorem rowEncodes_none {i : Instr} (h : EncodesAs P i op 0 0) : RowEncodes P op (.none i) := by
  intro arg len j hj hlen
  simp only [OperandForm.operation, Option.ite_none_right_eq_some, Option.some.injEq] at hj
  obtain ⟨rfl, rfl⟩ := hj
  obtain rfl : len = 0 := eq_of_beq hlen
  exact h

theorem rowEncodes_bit {f : Bool → Instr} (h : ∀ b, EncodesAs P (f b) op (bitByte b) 0) :
    RowEncodes P op (.bit f) := by
  intro arg len j hj hlen
  obtain ⟨b, hb, rfl⟩ := Option.map_eq_some_iff.mp hj
  obtain rfl : len = 0 := eq_of_beq hlen
  exact bitByte_of_bitOperand hb ▸ h b

theorem rowEncodes_byte {f : Byte → Instr} (h : ∀ v, EncodesAs P (f v) op v 0) :
    RowEncodes P op (.byte f) := by
  intro arg len j hj hlen
  obtain rfl : f arg = j := Option.some.inj hj
  obtain rfl : len = 0 := eq_of_beq hlen
  exact h arg

theorem rowEncodes_nibble {f : BitVec 4 → Instr} (h : ∀ c, EncodesAs P (f c) op (c.zeroExtend 8) 0) :
    RowEncodes P op (.nibble f) := by
  intro arg len j hj hlen
  obtain ⟨c, hc, rfl⟩ := Option.map_eq_some_iff.mp hj
  obtain rfl : len = 0 := eq_of_beq hlen
  exact zeroExtend_of_nibbleOperand hc ▸ h c

theorem rowEncodes_level {f : Level → Instr} (h : ∀ l, EncodesAs P (f l) op (levelByte l) 0) :
    RowEncodes P op (.level f) := by
  intro arg len j hj hlen
  obtain ⟨l, hl, rfl⟩ := Option.map_eq_some_iff.mp hj
  obtain rfl : len = 0 := eq_of_beq hlen
  exact levelByte_of_levelOperand hl ▸ h l

theorem rowEncodes_length {f : BitVec 9 → Instr}
    (h : ∀ n : BitVec 9, n.toNat ≤ P.bufSize → EncodesAs P (f n) op 0 n) :
    RowEncodes P op (.length f) := by
  intro arg len j hj hlen
  simp only [OperandForm.operation, Option.ite_none_right_eq_some, Option.some.injEq] at hj
  obtain ⟨rfl, rfl⟩ := hj
  exact h len (of_decide_eq_true hlen)

end

/-- Row by row, the encoder puts the OP value and the operand where the decoder reads them. -/
theorem rowEncodes_busRows (P : Params) : ∀ row ∈ busRows, RowEncodes P row.1 row.2 := by
  simp only [busRows, List.forall_mem_cons]
  exact ⟨rowEncodes_none (i := .bridgeReset) ⟨rfl, rfl, rfl⟩,
    rowEncodes_none (i := .detect) ⟨rfl, rfl, rfl⟩,
    rowEncodes_nibble (f := .writeConfig) fun _ => ⟨rfl, rfl, rfl⟩,
    rowEncodes_none (i := .busReset) ⟨rfl, rfl, rfl⟩,
    rowEncodes_bit (f := .touchBit) fun _ => ⟨rfl, rfl, rfl⟩,
    rowEncodes_bit (f := .writeBit) fun _ => ⟨rfl, rfl, rfl⟩,
    rowEncodes_none (i := .readBit) ⟨rfl, rfl, rfl⟩,
    rowEncodes_byte (f := .writeByte) fun _ => ⟨rfl, rfl, rfl⟩,
    rowEncodes_none (i := .readByte) ⟨rfl, rfl, rfl⟩,
    rowEncodes_byte (f := .touchByte) fun _ => ⟨rfl, rfl, rfl⟩,
    rowEncodes_length (f := .block) fun _ hn => ⟨rfl, decide_eq_true hn, rfl⟩,
    rowEncodes_level (f := .setLevel) fun _ => ⟨rfl, rfl, rfl⟩,
    rowEncodes_bit (f := .writeBitPower) fun _ => ⟨rfl, rfl, rfl⟩,
    rowEncodes_byte (f := .writeBytePower) fun _ => ⟨rfl, rfl, rfl⟩,
    fun _ h => absurd h List.not_mem_nil⟩

theorem rowEncodes_searchRows (P : Params) : ∀ row ∈ searchRows, RowEncodes P row.1 row.2 := by
  simp only [searchRows, List.forall_mem_cons]
  exact ⟨rowEncodes_none (i := .crcClear) ⟨rfl, rfl, rfl⟩,
    rowEncodes_byte (f := .crcUpdate) fun _ => ⟨rfl, rfl, rfl⟩,
    rowEncodes_none (i := .searchFirst) ⟨rfl, rfl, rfl⟩,
    rowEncodes_none (i := .searchNext) ⟨rfl, rfl, rfl⟩,
    rowEncodes_none (i := .alarmFirst) ⟨rfl, rfl, rfl⟩,
    rowEncodes_none (i := .alarmNext) ⟨rfl, rfl, rfl⟩,
    rowEncodes_bit (f := .triplet) fun _ => ⟨rfl, rfl, rfl⟩,
    fun _ h => absurd h List.not_mem_nil⟩

theorem rowEncodes_of_mem (P : Params) : ∀ row ∈ operationMap, RowEncodes P row.1 row.2 :=
  List.forall_mem_append.mpr ⟨rowEncodes_busRows P, rowEncodes_searchRows P⟩

/-- The form the map gives for an OP value stands in a row of the map. -/
theorem mem_operationMap_of_lookup {op : Byte} {form : OperandForm}
    (h : operationMap.lookup op = some form) : (op, form) ∈ operationMap := by
  obtain ⟨l₁, l₂, he, -⟩ := List.lookup_eq_some_iff.mp h
  rw [he]
  simp

/-- Settles O10: the fields of a word that decodes are those of the encoding, and with RSV = 0 they are the
whole word. -/
theorem legalRequestIsTheEncoding : Obligations.LegalRequestIsTheEncoding := by
  intro P req i hdecode
  obtain ⟨hrsv, form, hform, hop, hlen⟩ := decodeRequest_eq_ok_iff.mp hdecode
  obtain ⟨hi, hwf, henc⟩ := rowEncodes_of_mem P _ (mem_operationMap_of_lookup hform) _ _ _ hop hlen
  rw [requestWord_fields hrsv] at henc
  exact ⟨hi, hwf, henc⟩

/-! ### Illegal words (30_encoding.md R82) -/

/-- The numbers in the fields of a legal request word, by operand form (30_encoding.md R76 to R79). -/
inductive LegalFields (P : Params) (op arg len : Nat) : Prop where
  | none (hop : op ∈ [0x01, 0x02, 0x10, 0x13, 0x15, 0x20, 0x30, 0x31, 0x32, 0x33]) (harg : arg = 0)
      (hlen : len = 0)
  | bit (hop : op ∈ [0x11, 0x12, 0x19, 0x34]) (harg : arg ≤ 1) (hlen : len = 0)
  | byte (hop : op ∈ [0x14, 0x16, 0x1A, 0x21]) (hlen : len = 0)
  | nibble (hop : op = 0x03) (harg : arg ≤ 15) (hlen : len = 0)
  | level (hop : op = 0x18) (harg : arg = 0 ∨ arg = 2) (hlen : len = 0)
  | length (hop : op = 0x17) (harg : arg = 0) (hlen : len ≤ P.bufSize)

theorem bitByte_toNat_le (b : Bool) : (bitByte b).toNat ≤ 1 := by
  cases b <;> decide

theorem zeroExtend_toNat_le (c : BitVec 4) : (c.zeroExtend 8).toNat ≤ 15 := by
  have := c.isLt
  rw [BitVec.toNat_setWidth_of_le (by decide)]
  omega

theorem levelByte_toNat (l : Level) : (levelByte l).toNat = 0 ∨ (levelByte l).toNat = 2 := by
  cases l <;> decide

/-- A well-formed operation is encoded with legal fields. -/
theorem legalFields_of_encode {P : Params} {i : Instr} (hi : i.isOperation = true)
    (hwf : WellFormed P i) :
    ∃ op arg len, encode P i = .request (requestWord op arg len) ∧
      LegalFields P op.toNat arg.toNat len.toNat := by
  cases i with
  | bridgeReset | detect | busReset | readBit | readByte | crcClear | searchFirst | searchNext
  | alarmFirst | alarmNext => exact ⟨_, _, _, rfl, .none (by decide) rfl rfl⟩
  | touchBit b | writeBit b | writeBitPower b | triplet b =>
    exact ⟨_, _, _, rfl, .bit (by decide) (bitByte_toNat_le b) rfl⟩
  | writeByte v | touchByte v | writeBytePower v | crcUpdate v =>
    exact ⟨_, _, _, rfl, .byte (by decide) rfl⟩
  | writeConfig c => exact ⟨_, _, _, rfl, .nibble rfl (zeroExtend_toNat_le c) rfl⟩
  | setLevel l => exact ⟨_, _, _, rfl, .level rfl (levelByte_toNat l) rfl⟩
  | block n => exact ⟨_, _, _, rfl, .length rfl rfl (of_decide_eq_true hwf)⟩
  | _ => cases hi

/-- A word that decodes has legal fields and RSV = 0. -/
theorem legalFields_of_decode {P : Params} {req : Word} {i : Instr}
    (h : decode P (.request req) = .ok i) :
    LegalFields P (opField req).toNat (argField req).toNat (lenField req).toNat ∧
      (rsvField req).toNat = 0 := by
  obtain ⟨hi, hwf, henc⟩ := legalRequestIsTheEncoding P req i h
  obtain ⟨op, arg, len, henc', hlegal⟩ := legalFields_of_encode hi hwf
  obtain rfl : requestWord op arg len = req := Code.request.inj (henc'.symm.trans henc)
  simpa using hlegal

/-- Settles O12: a word that decodes has legal fields, and none of the faults listed leaves them legal. -/
theorem illegalWordsRejected : Obligations.IllegalWordsRejected := by
  intro P req op arg len rsv hillegal
  cases hdecode : decode P (.request req) with
  | error e => exact ⟨e, rfl⟩
  | ok i =>
    exfalso
    obtain ⟨hlegal, hrsv⟩ : LegalFields P op arg len ∧ rsv = 0 := legalFields_of_decode hdecode
    clear_value op arg len rsv
    simp only [List.mem_cons, List.not_mem_nil, or_false] at hillegal
    cases hlegal with
    | none hop => simp only [List.mem_cons, List.not_mem_nil, or_false] at hop; omega
    | bit hop => simp only [List.mem_cons, List.not_mem_nil, or_false] at hop; omega
    | byte hop => simp only [List.mem_cons, List.not_mem_nil, or_false] at hop; omega
    | nibble => omega
    | level => omega
    | length => omega

end Sys2Proof.Machine
end

section
/-! Disassembled text read back (30_encoding.md R95, R99): a legal request word prints as a mnemonic and at
most one operand, and each is read as what it was printed from. -/

namespace Sys2Proof.Machine

/-! ### Lines -/

/-- A character with no meaning of its own in a source line: no blank, comma, colon or semicolon. -/
def plainChar (c : Char) : Bool := c != ' ' && c != ',' && c != ':' && c != ';'

/-- A text of such characters, and at least one. -/
def plainText (cs : List Char) : Bool := !cs.isEmpty && cs.all plainChar

theorem plainChar_iff {c : Char} : plainChar c = true ↔ c ≠ ' ' ∧ c ≠ ',' ∧ c ≠ ':' ∧ c ≠ ';' := by
  simp [plainChar, and_assoc]

theorem plainText_iff {cs : List Char} :
    plainText cs = true ↔ cs ≠ [] ∧ ∀ c ∈ cs, plainChar c = true := by
  simp [plainText]

/-- No character of a plain text is a blank, a colon or a semicolon. -/
theorem forall_mem_of_plainText {cs : List Char} (h : plainText cs = true) :
    ∀ c ∈ cs, (c != ' ') = true ∧ c ≠ ':' ∧ c ≠ ';' := by
  intro c hc
  obtain ⟨hblank, -, hmarks⟩ := plainChar_iff.mp ((plainText_iff.mp h).2 c hc)
  exact ⟨bne_iff_ne.mpr hblank, hmarks⟩

/-- A text with no blank at either end is left as it is. -/
theorem trimBlanks_eq_self {cs : List Char} (hfirst : cs.head? ≠ some ' ')
    (hlast : cs.getLast? ≠ some ' ') : trimBlanks cs = cs := by
  have hdrop {ds : List Char} (h : ds.head? ≠ some ' ') : ds.dropWhile (· == ' ') = ds := by
    cases ds with
    | nil => rfl
    | cons d ds => exact List.dropWhile_cons_of_neg (by simpa using h)
  rw [trimBlanks, hdrop hfirst, hdrop (by rwa [List.head?_reverse]), List.reverse_reverse]

theorem head?_append_ne_blank {cs : List Char} (h : plainText cs = true) (ds : List Char) :
    (cs ++ ds).head? ≠ some ' ' := by
  cases cs with
  | nil => cases h
  | cons c cs => simpa using (forall_mem_of_plainText h c List.mem_cons_self).1

theorem getLast?_append_ne_blank {cs : List Char} (h : plainText cs = true) (ds : List Char) :
    (ds ++ cs).getLast? ≠ some ' ' := by
  have hne : cs ≠ [] := (plainText_iff.mp h).1
  rw [List.getLast?_append_of_ne_nil _ hne, List.getLast?_eq_getLast_of_ne_nil hne]
  simpa using (forall_mem_of_plainText h _ (List.getLast_mem hne)).1

theorem trimBlanks_plainText {cs : List Char} (h : plainText cs = true) : trimBlanks cs = cs :=
  trimBlanks_eq_self (by simpa using head?_append_ne_blank h []) (getLast?_append_ne_blank h [])

/-- A text without commas is one piece. -/
theorem splitOn_plainText {cs : List Char} (h : plainText cs = true) : splitOn ',' cs = [cs] := by
  have hplain := (plainText_iff.mp h).2
  clear h
  induction cs with
  | nil => rfl
  | cons c cs ih =>
    rw [List.forall_mem_cons] at hplain
    have hc : (c == ',') = false := by simpa using (plainChar_iff.mp hplain.1).2.1
    simp only [splitOn, hc, Bool.false_eq_true, if_false, ih hplain.2]

/-- A line without a colon or semicolon is one statement without a label. -/
theorem readLine_eq_readStatement {cs : List Char} (h : ∀ c ∈ cs, c ≠ ':' ∧ c ≠ ';') :
    readLine cs = readStatement none cs := by
  have hcode : cs.takeWhile (· != ';') = cs :=
    List.takeWhile_eq_self_iff.mpr fun c hc => by simpa using (h c hc).2
  have hlabel : cs.contains ':' = false := by
    simpa using fun hc : ':' ∈ cs => (h _ hc).1 rfl
  simp only [readLine, hcode, hlabel, Bool.false_eq_true, if_false]

section
variable {name text : List Char}

/-- A plain text is a mnemonic without operands. -/
theorem readLine_mnemonic (hname : plainText name = true) : readLine name = ⟨none, name, []⟩ := by
  have hblank : ∀ c ∈ name, (c != ' ') = true := fun c hc => (forall_mem_of_plainText hname c hc).1
  rw [readLine_eq_readStatement fun c hc => (forall_mem_of_plainText hname c hc).2, readStatement]
  simp only [trimBlanks_plainText hname, List.takeWhile_eq_self_iff.mpr hblank,
    List.dropWhile_eq_nil_iff.mpr hblank]
  rfl

/-- Two plain texts with a blank between them are a mnemonic and its operand. -/
theorem readLine_mnemonic_operand (hname : plainText name = true) (htext : plainText text = true) :
    readLine (name ++ ' ' :: text) = ⟨none, name, [text]⟩ := by
  have hblank : ∀ c ∈ name, (c != ' ') = true := fun c hc => (forall_mem_of_plainText hname c hc).1
  have hmarks : ∀ c ∈ name ++ ' ' :: text, c ≠ ':' ∧ c ≠ ';' := by
    rw [List.forall_mem_append, List.forall_mem_cons]
    exact ⟨fun c hc => (forall_mem_of_plainText hname c hc).2, by decide,
      fun c hc => (forall_mem_of_plainText htext c hc).2⟩
  have hbody : trimBlanks (name ++ ' ' :: text) = name ++ ' ' :: text := by
    refine trimBlanks_eq_self (head?_append_ne_blank hname _) ?_
    simpa using getLast?_append_ne_blank htext (name ++ [' '])
  have hhead : (' ' :: text).takeWhile (· != ' ') = [] := rfl
  have htail : (' ' :: text).dropWhile (· != ' ') = ' ' :: text := rfl
  have hrest : trimBlanks (' ' :: text) = text := trimBlanks_plainText htext
  have hnonempty : text.isEmpty = false := List.isEmpty_eq_false_iff.mpr (plainText_iff.mp htext).1
  rw [readLine_eq_readStatement hmarks, readStatement]
  simp only [hbody, List.takeWhile_append_of_pos hblank, List.dropWhile_append_of_pos hblank, hhead,
    htail, hrest, hnonempty, splitOn_plainText htext, List.append_nil, Bool.false_eq_true, if_false,
    List.map_cons, List.map_nil, trimBlanks_plainText htext]

end

/-! ### Numbers -/

theorem digitValue_hexDigit {base d : Nat} (hd : d < base) (hbase : base ≤ 16) :
    digitValue base (hexDigit d) = some d := by
  have hd16 : d < 16 := by omega
  interval_cases d <;> exact if_pos hd

theorem plainChar_hexDigit {d : Nat} (hd : d < 16) : plainChar (hexDigit d) = true := by
  interval_cases d <;> rfl

theorem hexDigit_ne_x {d : Nat} (hd : d < 16) : hexDigit d ≠ 'x' := by
  interval_cases d <;> decide

theorem readDigits_cons_hexDigit {base acc d : Nat} (cs : List Char) (hd : d < base)
    (hbase : base ≤ 16) :
    readDigits base acc (hexDigit d :: cs) = readDigits base (base * acc + d) cs := by
  simp only [readDigits, digitValue_hexDigit hd hbase]

theorem readDigits_append (base acc : Nat) (cs ds : List Char) :
    readDigits base acc (cs ++ ds) = (readDigits base acc cs).bind fun n => readDigits base n ds := by
  induction cs generalizing acc with
  | nil => rfl
  | cons c cs ih =>
    simp only [List.cons_append, readDigits]
    cases digitValue base c with
    | none => rfl
    | some d => exact ih _

/-- The k hexadecimal digits of n are read as n modulo 16^k. -/
theorem readDigits_hexDigits (k n : Nat) : readDigits 16 0 (hexDigits k n) = some (n % 16 ^ k) := by
  induction k generalizing n with
  | zero => simp [hexDigits, readDigits, Nat.mod_one]
  | succ k ih =>
    have hdigit : n % 16 < 16 := Nat.mod_lt n (by decide)
    rw [hexDigits, readDigits_append, ih, Option.bind_some,
      readDigits_cons_hexDigit [] hdigit (le_refl 16), readDigits, Nat.pow_succ', Nat.mod_mul,
      Nat.add_comm]

theorem hexDigits_plain (k n : Nat) : ∀ c ∈ hexDigits k n, plainChar c = true := by
  induction k generalizing n with
  | zero => simp [hexDigits]
  | succ k ih =>
    rw [hexDigits, List.forall_mem_append]
    exact ⟨ih _, List.forall_mem_singleton.mpr (plainChar_hexDigit (Nat.mod_lt n (by decide)))⟩

theorem plainText_hexText (k n : Nat) : plainText (hexText k n) = true := by
  rw [plainText_iff, hexText, List.forall_mem_cons, List.forall_mem_cons]
  exact ⟨List.cons_ne_nil _ _, rfl, rfl, hexDigits_plain k n⟩

theorem readNumber_hexText {k n : Nat} (hk : 0 < k) (hn : n < 16 ^ k) :
    readNumber (hexText k n) = some n := by
  have hdigits := readDigits_hexDigits k n
  have hne : hexDigits k n ≠ [] := by
    cases k with
    | zero => cases hk
    | succ k => simp [hexDigits]
  obtain ⟨c, cs, hcs⟩ := List.exists_cons_of_ne_nil hne
  rw [hcs, Nat.mod_eq_of_lt hn] at hdigits
  rw [hexText, hcs]
  exact hdigits

/-- The three lengths of a number below 1000 in decimal. -/
theorem decimalText_cases {n : Nat} (hn : n < 1000) :
    (n < 10 ∧ decimalText n = [hexDigit n]) ∨
    (∃ a < 10, ∃ b < 10, n = 10 * a + b ∧ decimalText n = [hexDigit a, hexDigit b]) ∨
    ∃ a < 10, ∃ b < 10, ∃ c < 10, n = 10 * (10 * a + b) + c ∧
      decimalText n = [hexDigit a, hexDigit b, hexDigit c] := by
  unfold decimalText
  by_cases h1 : n < 10
  · exact .inl ⟨h1, if_pos h1⟩
  by_cases h2 : n < 100
  · exact .inr (.inl ⟨n / 10, by omega, n % 10, by omega, by omega, by rw [if_neg h1, if_pos h2]⟩)
  · exact .inr (.inr ⟨n / 100, by omega, n / 10 % 10, by omega, n % 10, by omega, by omega,
      by rw [if_neg h1, if_neg h2]⟩)

theorem plainText_decimalText {n : Nat} (hn : n < 1000) : plainText (decimalText n) = true := by
  have hdigit {d : Nat} (hd : d < 10) : plainChar (hexDigit d) = true := plainChar_hexDigit (by omega)
  rcases decimalText_cases hn with ⟨h, he⟩ | ⟨a, ha, b, hb, -, he⟩ | ⟨a, ha, b, hb, c, hc, -, he⟩
  · simp [he, plainText, hdigit h]
  · simp [he, plainText, hdigit ha, hdigit hb]
  · simp [he, plainText, hdigit ha, hdigit hb, hdigit hc]

/-- Without an x in the second place a number is decimal. -/
theorem readNumber_decimal (c : Char) {cs : List Char} (h : cs.head? ≠ some 'x') :
    readNumber (c :: cs) = readDigits 10 0 (c :: cs) := by
  unfold readNumber
  split
  case h_1 he => simp only [List.cons.injEq] at he; simp [he.2] at h
  case h_2 he => rw [he]
  case h_3 he => cases he

theorem readNumber_decimalText {n : Nat} (hn : n < 1000) : readNumber (decimalText n) = some n := by
  have hread {acc d : Nat} (cs : List Char) (hd : d < 10) :
      readDigits 10 acc (hexDigit d :: cs) = readDigits 10 (10 * acc + d) cs :=
    readDigits_cons_hexDigit cs hd (by decide)
  have hne {d : Nat} (cs : List Char) (hd : d < 10) : (hexDigit d :: cs).head? ≠ some 'x' := by
    simpa using hexDigit_ne_x (show d < 16 by omega)
  rcases decimalText_cases hn with ⟨h, he⟩ | ⟨a, ha, b, hb, rfl, he⟩ | ⟨a, ha, b, hb, c, hc, rfl, he⟩
  · rw [he, readNumber_decimal _ (by simp), hread _ h, readDigits]
    simp
  · rw [he, readNumber_decimal _ (hne _ hb), hread _ ha, hread _ hb, readDigits]
    simp
  · rw [he, readNumber_decimal _ (hne _ hb), hread _ ha, hread _ hb, hread _ hc, readDigits]
    simp

theorem readBelow_of_readNumber {bound n : Nat} {cs : List Char} (h : readNumber cs = some n)
    (hn : n < bound) : readBelow bound cs = some n := by
  simp only [readBelow, h, if_pos hn]

/-! ### Operands -/

/-- What a form prints is no operand or one plain text, and the assembler reads it as the operation the
decoder makes of the fields. -/
theorem operandText_cases {P : Params} {form : OperandForm} {arg : Byte} {len : BitVec 9} {i : Instr}
    (hop : form.operation arg len = some i) (hlen : form.lengthOk P len = true) :
    (operandText form arg len = [] ∧ operationOfArgs P form [] = some i) ∨
    ∃ text, plainText text = true ∧ operandText form arg len = ' ' :: text ∧
      operationOfArgs P form [text] = some i := by
  cases form with
  | none j =>
    simp only [OperandForm.operation, Option.ite_none_right_eq_some] at hop
    exact .inl ⟨rfl, hop.2⟩
  | bit f =>
    obtain ⟨b, hb, rfl⟩ := Option.map_eq_some_iff.mp hop
    obtain rfl := bitByte_of_bitOperand hb
    have hle := bitByte_toNat_le b
    refine .inr ⟨_, plainText_decimalText (by omega), rfl, ?_⟩
    simp only [operationOfArgs]
    rw [readBelow_of_readNumber (readNumber_decimalText (by omega)) (by omega)]
    cases b <;> rfl
  | byte f =>
    obtain rfl : f arg = i := Option.some.inj hop
    refine .inr ⟨_, plainText_hexText 2 _, rfl, ?_⟩
    simp only [operationOfArgs]
    rw [readBelow_of_readNumber (readNumber_hexText (by decide) arg.isLt) arg.isLt]
    simp
  | nibble f =>
    obtain ⟨c, hc, rfl⟩ := Option.map_eq_some_iff.mp hop
    obtain rfl := zeroExtend_of_nibbleOperand hc
    have hnat : (c.zeroExtend 8).toNat = c.toNat := BitVec.toNat_setWidth_of_le (by decide)
    refine .inr ⟨_, plainText_hexText 1 _, rfl, ?_⟩
    simp only [operationOfArgs, hnat]
    rw [readBelow_of_readNumber (readNumber_hexText (by decide) c.isLt) c.isLt]
    simp
  | level f =>
    obtain ⟨l, hl, rfl⟩ := Option.map_eq_some_iff.mp hop
    obtain rfl := levelByte_of_levelOperand hl
    cases l with
    | standard => exact .inr ⟨"STANDARD".toList, by decide, rfl, rfl⟩
    | strong => exact .inr ⟨"STRONG".toList, by decide, rfl, rfl⟩
  | length f =>
    simp only [OperandForm.operation, Option.ite_none_right_eq_some, Option.some.injEq] at hop
    obtain ⟨rfl, rfl⟩ := hop
    have hsize : len.toNat ≤ P.bufSize := of_decide_eq_true hlen
    have hlt := len.isLt
    refine .inr ⟨_, plainText_decimalText (by omega), rfl, ?_⟩
    simp only [operationOfArgs]
    rw [readBelow_of_readNumber (readNumber_decimalText (by omega)) (by omega)]
    simp

/-! ### Mnemonics -/

/-- The mnemonic of a row of the map is a plain text that names the row's OP value (30_encoding.md R79). -/
theorem nameOfOp_of_mem : ∀ row ∈ operationMap,
    plainText (nameOfOp row.1) = true ∧ opOfName (nameOfOp row.1) = some row.1 := by
  decide

theorem requestOf_of_encode {P : Params} {i : Instr} {req : Word} (h : encode P i = .request req) :
    requestOf P i = some req := by
  simp only [requestOf, h]

/-- Settles O59: the mnemonic gives back the row, the operand the operation, and that operation is encoded as the
word. -/
theorem disassemblyAssemblesBack : Obligations.DisassemblyAssemblesBack := by
  intro P req i hdecode
  obtain ⟨-, -, hencode⟩ := legalRequestIsTheEncoding P req i hdecode
  obtain ⟨-, form, hform, hop, hlen⟩ := decodeRequest_eq_ok_iff.mp hdecode
  obtain ⟨hname, hopName⟩ := nameOfOp_of_mem _ (mem_operationMap_of_lookup hform)
  have htext : disassemble P req =
      nameOfOp (opField req) ++ operandText form (argField req) (lenField req) := by
    simp only [disassemble, show decodeRequest P req = .ok i from hdecode, hform]
  have hassemble {args : List (List Char)} (hargs : operationOfArgs P form args = some i) :
      assemble P ⟨none, nameOfOp (opField req), args⟩ = some req := by
    simp only [assemble, hopName, hform, hargs, Option.bind_some, requestOf_of_encode hencode]
  rw [htext]
  rcases operandText_cases hop hlen with ⟨hnil, hargs⟩ | ⟨text, hplain, hcons, hargs⟩
  · rw [hnil, List.append_nil, readLine_mnemonic hname]
    exact hassemble hargs
  · rw [hcons, readLine_mnemonic_operand hname hplain]
    exact hassemble hargs

end Sys2Proof.Machine
end

section
/-! The frames an operation adds to the history (30_encoding.md R86 to R90, R93): every procedure of the block
sends legal frames only, and so does every operation made of them. -/

namespace Sys2Proof.Machine

/-- From s to t the history was only extended, by frames the block may send, under the same parameters. -/
def SendsLegal (s t : State) : Prop :=
  t.params = s.params ∧ ∃ fs, t.hist = s.hist ++ fs ∧ ∀ f ∈ fs, LegalFrame s.params f

section
variable {s t u : State}

/-- A change that issues no frame. -/
theorem SendsLegal.of_hist_eq (hp : t.params = s.params) (hh : t.hist = s.hist) : SendsLegal s t :=
  ⟨hp, [], by simp [hh], by simp⟩

theorem SendsLegal.refl (s : State) : SendsLegal s s := .of_hist_eq rfl rfl

theorem SendsLegal.of_answered {fs : List Frame} (h : ∀ f ∈ fs, LegalFrame s.params f) :
    SendsLegal s (s.answered fs) :=
  ⟨rfl, fs, rfl, h⟩

theorem SendsLegal.trans (h : SendsLegal s t) (h' : SendsLegal t u) : SendsLegal s u := by
  obtain ⟨hp, fs, hh, hfs⟩ := h
  obtain ⟨hp', gs, hh', hgs⟩ := h'
  rw [hp] at hgs
  refine ⟨hp'.trans hp, fs ++ gs, by rw [hh', hh, List.append_assoc], fun f hf => ?_⟩
  exact (List.mem_append.mp hf).elim (hfs f) (hgs f)

/-- A procedure that sends legal frames, followed by register writes. -/
theorem SendsLegal.write (h : SendsLegal s t) (hp : u.params = t.params) (hh : u.hist = t.hist) :
    SendsLegal s u :=
  h.trans (.of_hist_eq hp hh)

end

/-! ### The procedures -/

theorem sendsLegal_commandWait {cmd : Byte} {arg : Option Byte} {s : State}
    (h : ∀ r, LegalFrame s.params (.txn cmd arg r)) : SendsLegal s (commandWait cmd arg s).2 := by
  obtain ⟨S, fs, hw, he⟩ := commandWait_cases cmd arg s
  rw [he]
  exact .of_answered (legalFrame_waited hw h)

theorem sendsLegal_command {cmd : Byte} {arg : Option Byte} {s : State}
    (h : ∀ r, LegalFrame s.params (.txn cmd arg r)) : SendsLegal s (command cmd arg s).2 :=
  .of_answered (List.forall_mem_singleton.mpr (h _))

theorem sendsLegal_bridgeResetSeq (s : State) : SendsLegal s (bridgeResetSeq s).2 :=
  sendsLegal_command fun _ => .inl rfl

/-- The frames of a configuration write: the configuration with its complement, and a device reset where
the echo does not match. -/
theorem legalFrame_configWritten {s : State} {c : BitVec 4} {ok : Bool} {fs : List Frame}
    (h : ConfigWritten s c ok fs) : ∀ f ∈ fs, LegalFrame s.params f := by
  have hconfig (r : Byte) : LegalFrame s.params (.txn s.params.cmdWcfg (some (~~~c ++ c)) r) :=
    .inl ⟨rfl, c, rfl⟩
  have hreset : LegalFrame s.params (resetFrame s 1) := .inl rfl
  rcases h with ⟨-, -, rfl⟩ | ⟨-, -, rfl⟩
  · exact List.forall_mem_singleton.mpr (hconfig _)
  · exact List.forall_mem_cons.mpr ⟨hconfig _, List.forall_mem_singleton.mpr hreset⟩

theorem sendsLegal_writeConfigSeq (c : BitVec 4) (s : State) : SendsLegal s (writeConfigSeq c s).2 := by
  obtain ⟨ok, fs, hc, he⟩ := writeConfigSeq_spec c s
  have hlegal : SendsLegal s (s.answered fs) := .of_answered (legalFrame_configWritten hc)
  rw [he]
  cases ok with
  | false => exact hlegal
  | true => exact hlegal.write rfl rfl

theorem legalFrame_singleBit (P : Params) (b : Bool) (r : Byte) :
    LegalFrame P (.txn P.cmd1wsb (some (bitArg b)) r) := by
  cases b <;> simp [LegalFrame, bitArg]

theorem sendsLegal_busResetSeq (s : State) : SendsLegal s (busResetSeq s).2 :=
  have hwait : SendsLegal s (commandWait s.params.cmd1wrs none s).2 :=
    sendsLegal_commandWait fun _ => .inr (.inl rfl)
  hwait.write rfl rfl

theorem sendsLegal_touchBitSeq (b : Bool) (s : State) : SendsLegal s (touchBitSeq b s).2 :=
  sendsLegal_commandWait fun r => legalFrame_singleBit s.params b r

theorem sendsLegal_writeByteSeq (v : Byte) (s : State) : SendsLegal s (writeByteSeq v s) :=
  sendsLegal_commandWait fun _ => .inr (.inr (.inl rfl))

theorem sendsLegal_readByteSeq (s : State) : SendsLegal s (readByteSeq s).2 := by
  have hread : SendsLegal s (commandWait s.params.cmd1wrb none s).2 :=
    sendsLegal_commandWait fun _ => .inr (.inr rfl)
  refine hread.trans (sendsLegal_command fun _ => ?_)
  rw [hread.1]
  exact .inr (.inr (.inr (.inl ⟨rfl, rfl⟩)))

theorem sendsLegal_touchByteSeq (v : Byte) (s : State) : SendsLegal s (touchByteSeq v s).2 := by
  unfold touchByteSeq
  split
  · exact sendsLegal_readByteSeq s
  · exact sendsLegal_writeByteSeq v s

theorem sendsLegal_setLevelSeq (l : Level) (s : State) : SendsLegal s (setLevelSeq l s).2 := by
  cases l with
  | strong => exact .refl s
  | standard =>
    obtain ⟨ok, fs, hc, he⟩ := setLevelSeq_standard s
    have hlegal : SendsLegal s (s.answered fs) := .of_answered (legalFrame_configWritten hc)
    rw [he]
    cases ok with
    | false => exact hlegal
    | true => exact hlegal.write rfl rfl

theorem sendsLegal_tripletSeq (d : Bool) (s : State) : SendsLegal s (tripletSeq d s).2 :=
  sendsLegal_commandWait fun r => legalFrame_bitArg s.params d r

theorem sendsLegal_blockLoop {left i : Nat} {s t : State} (h : blockLoop left i s = .ok t) :
    SendsLegal s t := by
  induction left generalizing i s with
  | zero => cases h; exact .refl t
  | succ left ih =>
    cases hv : s.bufByte i with
    | none => simp only [blockLoop, hv, reduceCtorEq] at h
    | some v =>
      simp only [blockLoop, hv] at h
      have htouch : SendsLegal s ((touchByteSeq v s).2.writeBuf i (touchByteSeq v s).1) :=
        (sendsLegal_touchByteSeq v s).write rfl rfl
      exact htouch.trans (ih h)

/-! ### A pass (44_search.md R150) -/

theorem sendsLegal_searchStateReset {s t : State} (h : SendsLegal s t) :
    SendsLegal s (searchStateReset t) :=
  h.write rfl rfl

theorem sendsLegal_finishPass {c : Cursor} {s t : State} (h : SendsLegal s t) :
    SendsLegal s (finishPass c t).2 := by
  rcases finishPass_cases c t with ⟨-, -, -, he⟩ | ⟨-, he⟩
  · rw [he, recordSuccess_eq]
    exact h.write rfl rfl
  · rw [he]
    exact sendsLegal_searchStateReset h

/-- The loop of a pass sends triplets, their re-reads and recovery only. -/
theorem sendsLegal_searchLoop {s : State} (hcrc : CrcBefore s 1) :
    SendsLegal s (searchLoop 64 Cursor.start s).2 := by
  obtain ⟨fs, hpass, -, hlegal, -⟩ := searchLoop_spec 64 Cursor.start s (le_refl 1) (le_refl 65) hcrc
  exact (SendsLegal.of_answered hlegal).write hpass.params (by rw [hpass])

theorem sendsLegal_search (rc : Byte) (s : State) : SendsLegal s (search rc s).2 := by
  rcases search_cases rc s with ⟨-, he⟩ | ⟨-, S, fs, hw, h⟩
  · rw [he]
    cases s.params.ldfExitResets
    · exact .refl s
    · exact sendsLegal_searchStateReset (.refl s)
  have hreset : SendsLegal s (s.answered fs) :=
    .of_answered (legalFrame_waited hw fun _ => .inr (.inl rfl))
  rcases h with ⟨-, he⟩ | ⟨-, T, gs, hg, he⟩
  · rw [he]
    exact sendsLegal_searchStateReset (hreset.write rfl rfl)
  · have hcommand : SendsLegal (s.answered fs) ((s.answered fs).answered gs) :=
      .of_answered (legalFrame_waited hg fun _ => .inr (.inr (.inl rfl)))
    have hstart : SendsLegal s (passStart s S fs gs) :=
      (hreset.trans hcommand).write rfl (by simp [passStart])
    rw [he]
    exact sendsLegal_finishPass (hstart.trans (sendsLegal_searchLoop (crcBefore_passStart s S fs gs)))

/-! ### The operations -/

/-- An operation whose pseudocode sends legal frames, whatever state it runs on. -/
theorem sendsLegal_operate {i : Instr} {body : State → Byte × State} {s t : State}
    (hexec : exec i s = operate body s) (h : exec i s = .next t) (hbody : ∀ s, SendsLegal s (body s).2) :
    SendsLegal s t := by
  obtain rfl := Host.Outcome.next.inj (hexec.symm.trans h)
  exact ((SendsLegal.of_hist_eq rfl rfl).trans (hbody (accept s))).write rfl rfl

theorem sendsLegal_detect {s t : State} (h : exec .detect s = .next t) : SendsLegal s t := by
  refine sendsLegal_operate (exec_detect s) h fun s => ?_
  have hreset := sendsLegal_bridgeResetSeq s
  split
  next he => rwa [he] at hreset
  next s1 he =>
    rw [he] at hreset
    exact hreset.trans (sendsLegal_writeConfigSeq detectConfig s1)

theorem sendsLegal_writeBitPower {b : Bool} {s t : State} (h : exec (.writeBitPower b) s = .next t) :
    SendsLegal s t := by
  refine sendsLegal_operate (exec_writeBitPower s b) h fun s => ?_
  have hconfig := sendsLegal_writeConfigSeq (withStrongPullup s.cfg) s
  split
  next he => rwa [he] at hconfig
  next s1 he =>
    rw [he] at hconfig
    have htouch := hconfig.trans (sendsLegal_touchBitSeq s.params.wbpSendBit s1)
    dsimp only
    split
    · exact htouch
    · exact htouch.trans (sendsLegal_setLevelSeq .standard _)

theorem sendsLegal_writeBytePower {v : Byte} {s t : State} (h : exec (.writeBytePower v) s = .next t) :
    SendsLegal s t := by
  refine sendsLegal_operate (exec_writeBytePower s v) h fun s => ?_
  have hconfig := sendsLegal_writeConfigSeq (withStrongPullup s.cfg) s
  split
  next he => rwa [he] at hconfig
  next s1 he =>
    rw [he] at hconfig
    exact hconfig.trans (sendsLegal_writeByteSeq v s1)

theorem sendsLegal_block {n : BitVec 9} {s t : State} (h : exec (.block n) s = .next t) :
    SendsLegal s t := by
  rw [exec_block, execBlock, operateOrFault] at h
  cases hloop : blockLoop n.toNat 0 (accept s) with
  | error e => simp only [hloop, reduceCtorEq] at h
  | ok u =>
    simp only [hloop, Host.Outcome.next.injEq] at h
    subst h
    exact ((SendsLegal.of_hist_eq rfl rfl).trans (sendsLegal_blockLoop hloop)).write rfl rfl

/-- SEARCH_FIRST and ALARM_FIRST reset the Search State before their pass. -/
theorem sendsLegal_of_isSearch {i : Instr} (hi : i.isSearch = true) {s t : State}
    (h : exec i s = .next t) : SendsLegal s t := by
  obtain ⟨rc, s0, hs0, he⟩ := exec_search hi s
  have hstart : SendsLegal s s0 := by
    rcases hs0 with rfl | rfl <;> exact .of_hist_eq rfl rfl
  rw [h, Host.Outcome.next.injEq] at he
  subst he
  exact (hstart.trans (sendsLegal_search rc s0)).write rfl rfl

/-- Settles O50: every operation is made of procedures that send legal frames. -/
theorem onlyLegalFramesAreSent : Obligations.OnlyLegalFramesAreSent := by
  intro s t i hi h
  suffices hlegal : SendsLegal s t from hlegal.2
  cases i with
  | bridgeReset => exact sendsLegal_operate (exec_bridgeReset s) h sendsLegal_bridgeResetSeq
  | detect => exact sendsLegal_detect h
  | writeConfig c => exact sendsLegal_operate (exec_writeConfig s c) h (sendsLegal_writeConfigSeq c)
  | busReset => exact sendsLegal_operate (exec_busReset s) h sendsLegal_busResetSeq
  | touchBit b => exact sendsLegal_operate (exec_touchBit s b) h (sendsLegal_touchBitSeq b)
  | writeBit b => exact sendsLegal_operate (exec_writeBit s b) h (sendsLegal_touchBitSeq b)
  | readBit => exact sendsLegal_operate (exec_readBit s) h (sendsLegal_touchBitSeq true)
  | writeByte v => exact sendsLegal_operate (exec_writeByte s v) h (sendsLegal_writeByteSeq v)
  | readByte => exact sendsLegal_operate (exec_readByte s) h sendsLegal_readByteSeq
  | touchByte v => exact sendsLegal_operate (exec_touchByte s v) h (sendsLegal_touchByteSeq v)
  | block n => exact sendsLegal_block h
  | setLevel l => exact sendsLegal_operate (exec_setLevel s l) h (sendsLegal_setLevelSeq l)
  | writeBitPower b => exact sendsLegal_writeBitPower h
  | writeBytePower v => exact sendsLegal_writeBytePower h
  | crcClear => exact sendsLegal_operate (exec_crcClear s) h fun _ => .of_hist_eq rfl rfl
  | crcUpdate v => exact sendsLegal_operate (exec_crcUpdate s v) h fun _ => .of_hist_eq rfl rfl
  | searchFirst | searchNext | alarmFirst | alarmNext => exact sendsLegal_of_isSearch rfl h
  | triplet d => exact sendsLegal_operate (exec_triplet s d) h (sendsLegal_tripletSeq d)
  | _ => cases hi

end Sys2Proof.Machine
end

section
/-! Bridge bytes and the row without a value (30_encoding.md section 2), as fixed words and finite tables. -/

namespace Sys2Proof.Machine

/-- Settles O8: the words stand written out, and the decoder runs on them. -/
theorem sampleWordsDecode : Obligations.SampleWordsDecode := by
  unfold Obligations.SampleWordsDecode
  decide

/-- Settles O14, by evaluation at each of the 256 bytes. -/
theorem statusSnapshotLayout : Obligations.StatusSnapshotLayout := by
  unfold Obligations.StatusSnapshotLayout
  decide

/-- Settles O19, by evaluation at each of the 16 configurations. -/
theorem configurationByteOnTheWire : Obligations.ConfigurationByteOnTheWire := by
  unfold Obligations.ConfigurationByteOnTheWire
  decide

/-- Settles O58: the row's arm of `exec` is that refusal. -/
theorem writeByteWithPowerStops : Obligations.WriteByteWithPowerStops :=
  exec_bridgeWriteByteWithPower

end Sys2Proof.Machine
end

section
/-! Transport and lifecycle (41_bridge.md): COMMAND_WAIT on a bridge that stays busy and on one that does not,
and what the three lifecycle operations do under each reply of the bridge. -/

namespace Sys2Proof.Machine

/-- Settles O15: a bridge busy through P_POLL_LIMIT + 1 answers is the second case of `Waited`. -/
theorem stuckBusyGivesSentinelAndOneReset : Obligations.StuckBusyGivesSentinelAndOneReset :=
  fun _ _ _ hbusy => ⟨_, commandWait_eq (.inr ⟨hbusy, rfl, rfl⟩), rfl⟩

/-- Settles O16: a first idle answer within P_POLL_LIMIT re-reads is the first case of `Waited`. -/
theorem pollEndsAtFirstIdleSnapshot : Obligations.PollEndsAtFirstIdleSnapshot :=
  fun _ _ _ k hk hbusy hidle => commandWait_eq (.inl ⟨k, hk, hbusy, hidle, rfl, rfl⟩)

theorem bitByte_resetAcknowledged (mask pattern reply : Byte) :
    bitByte (resetAcknowledged mask pattern reply) =
      if (reply &&& mask) = pattern then 0x01 else 0x00 := by
  simp only [bitByte, resetAcknowledged, beq_iff_eq]

/-- Settles O17: the operation is the reset procedure, its success reported as a byte. -/
theorem bridgeResetOutcome : Obligations.BridgeResetOutcome := by
  intro s
  rw [← bitByte_resetAcknowledged]
  exact (exec_bridgeReset s).trans (operate_answered rfl)

/-! ### WRITE_CONFIG (41_bridge.md R110, R111) -/

/-- What a configuration write does is determined by the bridge's answers. -/
theorem configWritten_unique {s : State} {c : BitVec 4} {ok ok' : Bool} {fs fs' : List Frame}
    (h : ConfigWritten s c ok fs) (h' : ConfigWritten s c ok' fs') : ok = ok' ∧ fs = fs' := by
  rcases h with ⟨hecho, rfl, rfl⟩ | ⟨hecho, rfl, rfl⟩ <;>
    rcases h' with ⟨hecho', rfl, rfl⟩ | ⟨hecho', rfl, rfl⟩
  · exact ⟨rfl, rfl⟩
  · exact absurd hecho hecho'
  · exact absurd hecho' hecho
  · exact ⟨rfl, rfl⟩

/-- `writeConfigSeq` computes what `ConfigWritten` describes. -/
theorem writeConfigSeq_eq {s : State} {c : BitVec 4} {ok : Bool} {fs : List Frame}
    (h : ConfigWritten s c ok fs) :
    writeConfigSeq c s = (ok, if ok then (s.answered fs).setCfg c else s.answered fs) := by
  obtain ⟨ok', fs', h', he⟩ := writeConfigSeq_spec c s
  obtain ⟨rfl, rfl⟩ := configWritten_unique h h'
  exact he

section
variable {s : State} {c : BitVec 4} {fs : List Frame}

theorem exec_writeConfig_of_success (h : ConfigWritten s c true fs) :
    exec (.writeConfig c) s = .next { completed s fs 0x01 with cfg := c } := by
  have hwrite := writeConfigSeq_eq ((configWritten_accept s c true fs).mpr h)
  exact (exec_writeConfig s c).trans (operate_setCfg (by simp only [hwrite]; rfl))

theorem exec_writeConfig_of_failure (h : ConfigWritten s c false fs) :
    exec (.writeConfig c) s = .next (completed s fs 0x00) := by
  have hwrite := writeConfigSeq_eq ((configWritten_accept s c false fs).mpr h)
  exact (exec_writeConfig s c).trans (operate_answered (by simp only [hwrite]; rfl))

end

/-- Settles O18: the two cases of a configuration write. -/
theorem writeConfigOutcome : Obligations.WriteConfigOutcome := fun _ _ =>
  ⟨fun hecho => exec_writeConfig_of_success (.inl ⟨hecho, rfl, rfl⟩),
    fun hecho => exec_writeConfig_of_failure (.inr ⟨hecho, rfl, rfl⟩)⟩

/-! ### DETECT (41_bridge.md R112) -/

section
variable {s : State}

theorem bridgeResetSeq_of_acknowledged
    (hack : (s.answer 0 &&& s.params.resetAckMask) = s.params.resetAck) :
    bridgeResetSeq s = (true, s.answered [resetFrame s 0]) := by
  simp only [bridgeResetSeq_eq, resetAcknowledged, beq_iff_eq.mpr hack]

theorem bridgeResetSeq_of_not_acknowledged
    (hack : (s.answer 0 &&& s.params.resetAckMask) ≠ s.params.resetAck) :
    bridgeResetSeq s = (false, s.answered [resetFrame s 0]) := by
  simp only [bridgeResetSeq_eq, resetAcknowledged, beq_false_of_ne hack]

theorem exec_detect_of_not_acknowledged
    (hack : (s.answer 0 &&& s.params.resetAckMask) ≠ s.params.resetAck) :
    exec .detect s = .next (completed s [resetFrame s 0] 0x00) := by
  have hreset := bridgeResetSeq_of_not_acknowledged (s := accept s) hack
  exact (exec_detect s).trans (operate_answered (by simp only [hreset]; rfl))

/-- DETECT's configuration write follows the reset's frame. -/
theorem writeConfigSeq_after_reset {ok : Bool} {fs : List Frame}
    (h : ConfigWritten (s.answered [resetFrame s 0]) detectConfig ok fs) :
    writeConfigSeq detectConfig ((accept s).answered [resetFrame s 0]) = (ok,
      if ok then ((accept s).answered (resetFrame s 0 :: fs)).setCfg detectConfig
      else (accept s).answered (resetFrame s 0 :: fs)) := by
  rw [writeConfigSeq_eq ((configWritten_accept_answered s _ _ _ _).mpr h), State.answered_answered,
    List.singleton_append]

variable {fs : List Frame}

theorem exec_detect_of_success (hack : (s.answer 0 &&& s.params.resetAckMask) = s.params.resetAck)
    (h : ConfigWritten (s.answered [resetFrame s 0]) detectConfig true fs) :
    exec .detect s = .next { completed s (resetFrame s 0 :: fs) 0x01 with cfg := detectConfig } := by
  have hreset : bridgeResetSeq (accept s) = (true, (accept s).answered [resetFrame s 0]) :=
    bridgeResetSeq_of_acknowledged hack
  exact (exec_detect s).trans
    (operate_setCfg (by simp only [hreset, writeConfigSeq_after_reset h]; rfl))

theorem exec_detect_of_failure (hack : (s.answer 0 &&& s.params.resetAckMask) = s.params.resetAck)
    (h : ConfigWritten (s.answered [resetFrame s 0]) detectConfig false fs) :
    exec .detect s = .next (completed s (resetFrame s 0 :: fs) 0x00) := by
  have hreset : bridgeResetSeq (accept s) = (true, (accept s).answered [resetFrame s 0]) :=
    bridgeResetSeq_of_acknowledged hack
  exact (exec_detect s).trans
    (operate_answered (by simp only [hreset, writeConfigSeq_after_reset h]; rfl))

end

/-- DETECT's configuration and its complement, as they go out on the wire. -/
theorem detectConfig_wire : ~~~detectConfig ++ detectConfig = (0xE1 : Byte) := by decide

section
variable {s : State}

theorem configWritten_detect_of_echo (hecho : (s.answer 1).extractLsb' 0 4 = 0x1#4) :
    ConfigWritten (s.answered [resetFrame s 0]) detectConfig true
      [.txn s.params.cmdWcfg (some 0xE1) (s.answer 1)] := by
  refine .inl ⟨?_, rfl, ?_⟩
  · rw [State.answer_answered]
    exact hecho
  · simp [detectConfig_wire]

theorem configWritten_detect_of_mismatch (hecho : (s.answer 1).extractLsb' 0 4 ≠ 0x1#4) :
    ConfigWritten (s.answered [resetFrame s 0]) detectConfig false
      [.txn s.params.cmdWcfg (some 0xE1) (s.answer 1), resetFrame s 2] := by
  refine .inr ⟨?_, rfl, ?_⟩
  · rw [State.answer_answered]
    exact hecho
  · simp [detectConfig_wire, resetFrame]

end

/-- Settles O20: a failed reset ends DETECT; after an acknowledged one, the configuration write has its two
cases. -/
theorem detectOutcome : Obligations.DetectOutcome := fun _ =>
  ⟨exec_detect_of_not_acknowledged, fun hack =>
    ⟨fun hecho => exec_detect_of_success hack (configWritten_detect_of_echo hecho),
      fun hecho => exec_detect_of_failure hack (configWritten_detect_of_mismatch hecho)⟩⟩

end Sys2Proof.Machine
end

section
/-! Bus primitives (42_bus.md): what each operation does under each reply of the bridge, BLOCK byte by byte
(R130), and the power-delivery operations (R131 to R134). -/

namespace Sys2Proof.Machine

/-! ### Reset, bits and bytes (42_bus.md R119 to R129) -/

/-- Settles O21: the procedure's one register write, SHORT, stands beside the completion's. -/
theorem busResetOutcome : Obligations.BusResetOutcome := by
  intro s
  obtain ⟨S, fs, hw, he⟩ := busResetSeq_spec (accept s)
  refine ⟨S, fs, hw, ?_⟩
  rw [exec_busReset, execBusReset, operate_of_eq (by simp only [he]; rfl), complete_eq rfl]
  rfl

/-- TOUCH_BIT_SEQ in an operation: the bit's argument waited for, and bit 5 of the snapshot given back. -/
theorem touchBitSeq_accept (b : Bool) (s : State) :
    ∃ S fs, Waited s s.params.cmd1wsb (some (if b then 0x80 else 0x00)) S fs ∧
      touchBitSeq b (accept s) = (S.getLsbD 5, (accept s).answered fs) :=
  touchBitSeq_spec b (accept s)

/-- Settles O22. -/
theorem touchBitOutcome : Obligations.TouchBitOutcome := by
  intro s b
  obtain ⟨S, fs, hw, he⟩ := touchBitSeq_accept b s
  exact ⟨S, fs, hw, (exec_touchBit s b).trans (operate_answered (by simp only [he]; rfl))⟩

/-- Settles O23: both are TOUCH_BIT_SEQ; WRITE_BIT drops the bit received. -/
theorem readBitAndWriteBitOutcome : Obligations.ReadBitAndWriteBitOutcome := by
  refine fun s => ⟨?read, fun b => ?write⟩
  case read =>
    obtain ⟨S, fs, hw, he⟩ := touchBitSeq_accept true s
    exact ⟨S, fs, hw, (exec_readBit s).trans (operate_answered (by simp only [he]; rfl))⟩
  case write =>
    obtain ⟨S, fs, hw, he⟩ := touchBitSeq_accept b s
    exact ⟨S, fs, hw, (exec_writeBit s b).trans (operate_answered (by simp only [he]))⟩

/-- Settles O24. -/
theorem writeByteOutcome : Obligations.WriteByteOutcome := by
  intro s v
  obtain ⟨S, fs, hw, he⟩ := writeByteSeq_spec v (accept s)
  exact ⟨S, fs, hw, (exec_writeByte s v).trans (operate_answered (by rw [he]))⟩

/-- Settles O25: the wait is followed by the pointer switch, whatever snapshot it gave. -/
theorem readByteOutcome : Obligations.ReadByteOutcome := by
  intro s
  obtain ⟨d, fs, ⟨S, ws, hw, rfl, rfl⟩, he⟩ := readByteSeq_spec (accept s)
  exact ⟨S, ws, hw, (exec_readByte s).trans (operate_answered he)⟩

/-- TOUCH_BYTE does what TOUCH_BYTE_SEQ does. -/
theorem exec_touchByte_spec (v : Byte) (s : State) :
    ∃ b fs, TouchByteDone s v b fs ∧ exec (.touchByte v) s = .next (completed s fs b) := by
  obtain ⟨b, fs, hdone, he⟩ := touchByteSeq_spec v (accept s)
  exact ⟨b, fs, hdone, (exec_touchByte s v).trans (operate_answered he)⟩

/-- Settles O26: the two cases of TOUCH_BYTE_SEQ, of which the byte's value leaves one. -/
theorem touchByteOutcome : Obligations.TouchByteOutcome := by
  refine fun s => ⟨?read, fun v hv => ?write⟩
  case read =>
    obtain ⟨b, fs, ⟨-, S, ws, hw, rfl, rfl⟩ | ⟨hne, -⟩, he⟩ := exec_touchByte_spec 0xFF s
    · exact ⟨S, ws, hw, he⟩
    · exact absurd rfl hne
  case write =>
    obtain ⟨b, fs, ⟨heq, -⟩ | ⟨-, rfl, S, hw⟩, he⟩ := exec_touchByte_spec v s
    · exact absurd heq hv
    · exact ⟨S, fs, hw, he⟩

/-! ### BLOCK (42_bus.md R130) -/

/-- The j-th of the bytes BLOCK stores is found at BUF[j]. -/
theorem bufWrites_read_bufAddr {m : Memory} {bs : List Byte} {j : Nat} {b : Byte}
    (h : bs[j]? = some b) : (bufWrites m 0 bs).read (bufAddr j) = some b := by
  obtain ⟨hj, -⟩ := List.getElem?_eq_some_iff.mp h
  rw [bufWrites_read, if_pos (by unfold bufAddr; omega),
    show bufAddr j - bufAddr 0 = j by unfold bufAddr; omega, h]

/-- BLOCK stores nothing outside BUF[0..n-1]. -/
theorem bufWrites_read_of_outside {m : Memory} {bs : List Byte} {a : Nat}
    (h : a < 0x0100 ∨ 0x0100 + bs.length ≤ a) : (bufWrites m 0 bs).read a = m.read a := by
  rw [bufWrites_read, if_neg (by unfold bufAddr; omega)]

/-- BLOCK whose loop completes. -/
theorem exec_block_of_loop {s : State} {n : BitVec 9} {fs : List Frame} {m : Memory}
    (h : blockLoop n.toNat 0 (accept s) = .ok (((accept s).answered fs).setBuf m)) :
    exec (.block n) s = .next { completed s fs 0x00 with buf := m } := by
  simp only [exec_block, execBlock, operateOrFault, h]
  rw [complete_eq rfl]
  rfl

/-- Settles O27: the loop of BLOCK, and what its stores leave at each address. -/
theorem blockOutcome : Obligations.BlockOutcome := by
  intro s n hset
  obtain ⟨bs, fss, hbs, hfss, hloop, htouch⟩ := blockLoop_spec n.toNat 0 (accept s) (by simpa using hset)
  refine ⟨bs, fss, _, hbs, hfss, exec_block_of_loop hloop, rfl, fun j b fs hb hf => ?bytes,
    fun a ha => ?frame⟩
  case bytes =>
    obtain ⟨v, hv, hdone⟩ := htouch j b fs hb hf
    rw [Nat.zero_add] at hv
    exact ⟨bufWrites_read_bufAddr hb, v, hv, hdone⟩
  case frame => exact bufWrites_read_of_outside (hbs ▸ ha)

/-! ### SET_LEVEL (42_bus.md R131) -/

theorem exec_setLevel_strong (s : State) : exec (.setLevel .strong) s = .next (completed s [] 0x02) :=
  (exec_setLevel s .strong).trans (operate_answered (by rw [State.answered_nil]; rfl))

/-- Settles O29: STRONG is rejected; STANDARD is a configuration write with its two cases. -/
theorem setLevelOutcome : Obligations.SetLevelOutcome := by
  refine fun s => ⟨exec_setLevel_strong s, ?_⟩
  obtain ⟨ok, fs, hc, he⟩ := setLevelSeq_standard (accept s)
  refine ⟨fs, ok, hc, ?_⟩
  cases ok with
  | false => exact (exec_setLevel s .standard).trans (operate_answered he)
  | true => exact (exec_setLevel s .standard).trans (operate_setCfg he)

/-! ### WRITE_BIT_POWER and WRITE_BYTE_POWER (42_bus.md R132, R133) -/

section
variable {s : State} {S : Byte} {fs ws : List Frame} {b : Bool} {v : Byte}

/-- Both operations begin by writing the configuration with SPU set. -/
theorem writeConfigSeq_strongPullup {ok : Bool}
    (h : ConfigWritten s (withStrongPullup s.cfg) ok fs) :
    writeConfigSeq (withStrongPullup (accept s).cfg) (accept s) =
      (ok, if ok then ((accept s).answered fs).setCfg (withStrongPullup s.cfg)
        else (accept s).answered fs) :=
  writeConfigSeq_eq ((configWritten_accept s _ ok fs).mpr h)

/-- A COMMAND_WAIT after that write, CFG being no part of what it depends on. -/
theorem commandWait_after_config {cmd : Byte} {arg : Option Byte} {c : BitVec 4}
    (h : Waited (s.answered fs) cmd arg S ws) :
    commandWait cmd arg (((accept s).answered fs).setCfg c) =
      (S, ((accept s).answered (fs ++ ws)).setCfg c) := by
  have hw : Waited (((accept s).answered fs).setCfg c) cmd arg S ws := h
  rw [commandWait_eq hw, State.setCfg_answered, State.answered_answered]

theorem touchBitSeq_after_config {c : BitVec 4}
    (h : Waited (s.answered fs) s.params.cmd1wsb (some (bitArg b)) S ws) :
    touchBitSeq b (((accept s).answered fs).setCfg c) =
      (stSingleBit S, ((accept s).answered (fs ++ ws)).setCfg c) := by
  simp only [touchBitSeq, State.setCfg_params, State.answered_params, accept_params,
    commandWait_after_config h]

theorem writeByteSeq_after_config {c : BitVec 4}
    (h : Waited (s.answered fs) s.params.cmd1wwb (some v) S ws) :
    writeByteSeq v (((accept s).answered fs).setCfg c) = ((accept s).answered (fs ++ ws)).setCfg c := by
  simp only [writeByteSeq, State.setCfg_params, State.answered_params, accept_params,
    commandWait_after_config h]

theorem exec_writeBitPower_of_failure (h : ConfigWritten s (withStrongPullup s.cfg) false fs) :
    exec (.writeBitPower b) s = .next (completed s fs 0x00) :=
  (exec_writeBitPower s b).trans
    (operate_answered (by simp only [writeConfigSeq_strongPullup h]; rfl))

theorem exec_writeBytePower_of_failure (h : ConfigWritten s (withStrongPullup s.cfg) false fs) :
    exec (.writeBytePower v) s = .next (completed s fs 0x00) :=
  (exec_writeBytePower s v).trans
    (operate_answered (by simp only [writeConfigSeq_strongPullup h]; rfl))

theorem exec_writeBytePower_of_success (h : ConfigWritten s (withStrongPullup s.cfg) true fs)
    (hw : Waited (s.answered fs) s.params.cmd1wwb (some v) S ws) :
    exec (.writeBytePower v) s =
      .next { completed s (fs ++ ws) 0x01 with cfg := withStrongPullup s.cfg } :=
  (exec_writeBytePower s v).trans (operate_setCfg (by
    simp only [writeConfigSeq_strongPullup h, if_true, writeByteSeq_after_config hw]))

theorem exec_writeBitPower_of_expected (h : ConfigWritten s (withStrongPullup s.cfg) true fs)
    (hw : Waited (s.answered fs) s.params.cmd1wsb (some (bitArg s.params.wbpSendBit)) S ws)
    (hb : stSingleBit S = b) :
    exec (.writeBitPower b) s =
      .next { completed s (fs ++ ws) 0x01 with cfg := withStrongPullup s.cfg } :=
  (exec_writeBitPower s b).trans (operate_setCfg (by
    simp only [writeConfigSeq_strongPullup h, if_true, accept_params, touchBitSeq_after_config hw, hb]))

/-- Another bit than the expected one: SET_LEVEL_SEQ(STANDARD) follows, on the configuration with SPU set. -/
theorem exec_writeBitPower_of_mismatch (h : ConfigWritten s (withStrongPullup s.cfg) true fs)
    (hw : Waited (s.answered fs) s.params.cmd1wsb (some (bitArg s.params.wbpSendBit)) S ws)
    (hb : stSingleBit S ≠ b) :
    ∃ ok gs, ConfigWritten (s.answered (fs ++ ws)) (withoutStrongPullup (withStrongPullup s.cfg)) ok gs ∧
      exec (.writeBitPower b) s = .next { completed s (fs ++ ws ++ gs) 0x00 with
        cfg := if ok then withoutStrongPullup (withStrongPullup s.cfg) else withStrongPullup s.cfg } := by
  obtain ⟨ok, gs, hc, he⟩ :=
    setLevelSeq_standard (((accept s).answered (fs ++ ws)).setCfg (withStrongPullup s.cfg))
  refine ⟨ok, gs, hc, (exec_writeBitPower s b).trans (operate_setCfg ?_)⟩
  simp only [writeConfigSeq_strongPullup h, if_true, accept_params, touchBitSeq_after_config hw,
    if_neg hb, he, State.setCfg_answered, State.answered_answered]
  cases ok <;> rfl

end

/-- Settles O30: the configuration write fails, the exchange gives the expected bit, or another one. -/
theorem writeBitPowerOutcome : Obligations.WriteBitPowerOutcome := by
  intro s b
  obtain ⟨ok, fs, hc, -⟩ := writeConfigSeq_spec (withStrongPullup s.cfg) s
  refine ⟨ok, fs, hc, ?failure, ?success⟩
  case failure => rintro rfl; exact exec_writeBitPower_of_failure hc
  case success =>
    rintro rfl
    obtain ⟨S, ws, hw, -⟩ := touchBitSeq_spec s.params.wbpSendBit (s.answered fs)
    exact ⟨S, ws, hw, exec_writeBitPower_of_expected hc hw, exec_writeBitPower_of_mismatch hc hw⟩

/-- Settles O31: the configuration write fails, or the byte follows it. -/
theorem writeBytePowerOutcome : Obligations.WriteBytePowerOutcome := by
  intro s v
  obtain ⟨ok, fs, hc, -⟩ := writeConfigSeq_spec (withStrongPullup s.cfg) s
  refine ⟨ok, fs, hc, ?failure, ?success⟩
  case failure => rintro rfl; exact exec_writeBytePower_of_failure hc
  case success =>
    rintro rfl
    obtain ⟨S, ws, hw, -⟩ := writeByteSeq_spec v (s.answered fs)
    exact ⟨S, ws, hw, exec_writeBytePower_of_success hc hw⟩

/-! ### Strong pullup persists (42_bus.md R134) -/

theorem cfgStrongPullup_withStrongPullup (c : BitVec 4) : cfgStrongPullup (withStrongPullup c) = true := by
  revert c; decide

section
variable {s t : State}

theorem cfg_of_exec_setLevel_strong (h : exec (.setLevel .strong) s = .next t) : t.cfg = s.cfg := by
  obtain rfl := Host.Outcome.next.inj ((exec_setLevel_strong s).symm.trans h)
  rfl

/-- WRITE_BYTE_POWER keeps CFG or sets SPU in it. -/
theorem cfg_of_exec_writeBytePower {v : Byte} (h : exec (.writeBytePower v) s = .next t) :
    t.cfg = s.cfg ∨ t.cfg = withStrongPullup s.cfg := by
  obtain ⟨ok, fs, -, hfail, hok⟩ := writeBytePowerOutcome s v
  cases ok with
  | false =>
    obtain rfl := Host.Outcome.next.inj ((hfail rfl).symm.trans h)
    exact .inl rfl
  | true =>
    obtain ⟨S, ws, -, he⟩ := hok rfl
    obtain rfl := Host.Outcome.next.inj (he.symm.trans h)
    exact .inr rfl

/-- WRITE_BIT_POWER returns 0, or it has set SPU. -/
theorem result_or_cfg_of_exec_writeBitPower {b : Bool} (h : exec (.writeBitPower b) s = .next t) :
    t.result = 0x00 ∨ t.cfg = withStrongPullup s.cfg := by
  obtain ⟨ok, fs, -, hfail, hok⟩ := writeBitPowerOutcome s b
  cases ok with
  | false =>
    obtain rfl := Host.Outcome.next.inj ((hfail rfl).symm.trans h)
    exact .inl rfl
  | true =>
    obtain ⟨S, ws, -, hexpected, hmismatch⟩ := hok rfl
    by_cases hb : S.getLsbD 5 = b
    · obtain rfl := Host.Outcome.next.inj ((hexpected hb).symm.trans h)
      exact .inr rfl
    · obtain ⟨ok', gs, -, he⟩ := hmismatch hb
      obtain rfl := Host.Outcome.next.inj (he.symm.trans h)
      exact .inl rfl

end

/-- Settles O32: of the writers of CFG, SET_LEVEL STRONG keeps it, WRITE_BYTE_POWER can only set SPU, and so
can WRITE_BIT_POWER when it does not return 0. -/
theorem strongPullupPersists : Obligations.StrongPullupPersists := by
  intro s t i hset hexec hclear
  have hkept : t.cfg ≠ s.cfg := fun h => by rw [h, hset] at hclear; cases hclear
  have hpower : t.cfg ≠ withStrongPullup s.cfg := fun h => by
    rw [h] at hclear
    exact Bool.false_ne_true (hclear.symm.trans (cfgStrongPullup_withStrongPullup s.cfg))
  obtain ⟨hcfg, -, -⟩ := configShortAndBufHaveTheirWriters s t i hexec
  rcases hcfg with h | rfl | ⟨c, rfl⟩ | ⟨l, rfl⟩ | ⟨b, rfl⟩ | ⟨v, rfl⟩
  · exact absurd h hkept
  · exact .inr (.inr (.inl rfl))
  · exact .inr (.inl ⟨c, rfl⟩)
  · cases l with
    | standard => exact .inl rfl
    | strong => exact absurd (cfg_of_exec_setLevel_strong hexec) hkept
  · have hresult := (result_or_cfg_of_exec_writeBitPower hexec).resolve_right hpower
    exact .inr (.inr (.inr ⟨b, rfl, hresult⟩))
  · exact ((cfg_of_exec_writeBytePower hexec).elim hkept hpower).elim

end Sys2Proof.Machine
end

section
/-! SHORT is written and never read (42_bus.md R135): run on a state with another value of SHORT, every
procedure returns the same value and leaves the same state, SHORT alone apart. -/

namespace Sys2Proof.Machine

/-! ### The procedures -/

section
variable (s : State) (b : Bool)

@[simp] theorem commandWait_setShort (cmd : Byte) (arg : Option Byte) :
    commandWait cmd arg (s.setShort b) =
      ((commandWait cmd arg s).1, (commandWait cmd arg s).2.setShort b) := by
  obtain ⟨S, fs, hw, he⟩ := commandWait_cases cmd arg s
  have hw' : Waited (s.setShort b) cmd arg S fs := hw
  rw [he, commandWait_eq hw', State.setShort_answered]

theorem bridgeResetSeq_setShort :
    bridgeResetSeq (s.setShort b) = ((bridgeResetSeq s).1, (bridgeResetSeq s).2.setShort b) := rfl

@[simp] theorem writeConfigSeq_setShort (c : BitVec 4) :
    writeConfigSeq c (s.setShort b) = ((writeConfigSeq c s).1, (writeConfigSeq c s).2.setShort b) := by
  obtain ⟨ok, fs, hc, he⟩ := writeConfigSeq_spec c s
  have hc' : ConfigWritten (s.setShort b) c ok fs := hc
  rw [he, writeConfigSeq_eq hc']
  cases ok <;> rfl

/-- The one procedure that writes SHORT leaves the same state whatever SHORT held. -/
@[simp] theorem busResetSeq_setShort : busResetSeq (s.setShort b) = busResetSeq s := by
  simp only [busResetSeq, State.setShort_params, commandWait_setShort]
  rfl

@[simp] theorem touchBitSeq_setShort (v : Bool) :
    touchBitSeq v (s.setShort b) = ((touchBitSeq v s).1, (touchBitSeq v s).2.setShort b) := by
  simp only [touchBitSeq, State.setShort_params, commandWait_setShort]

@[simp] theorem writeByteSeq_setShort (v : Byte) :
    writeByteSeq v (s.setShort b) = (writeByteSeq v s).setShort b := by
  simp only [writeByteSeq, State.setShort_params, commandWait_setShort]

@[simp] theorem readByteSeq_setShort :
    readByteSeq (s.setShort b) = ((readByteSeq s).1, (readByteSeq s).2.setShort b) := by
  simp only [readByteSeq, State.setShort_params, commandWait_setShort]
  rfl

@[simp] theorem touchByteSeq_setShort (v : Byte) :
    touchByteSeq v (s.setShort b) = ((touchByteSeq v s).1, (touchByteSeq v s).2.setShort b) := by
  unfold touchByteSeq
  split
  · exact readByteSeq_setShort s b
  · rw [writeByteSeq_setShort]

@[simp] theorem setLevelSeq_setShort (l : Level) :
    setLevelSeq l (s.setShort b) = ((setLevelSeq l s).1, (setLevelSeq l s).2.setShort b) := by
  cases l with
  | strong => rfl
  | standard =>
    simp only [setLevelSeq, State.setShort_cfg, writeConfigSeq_setShort]
    rcases writeConfigSeq (withoutStrongPullup s.cfg) s with ⟨_ | _, t⟩ <;> rfl

theorem blockLoop_setShort (left i : Nat) :
    blockLoop left i (s.setShort b) = (blockLoop left i s).map (·.setShort b) := by
  induction left generalizing i s with
  | zero => rfl
  | succ left ih =>
    have hbyte : (s.setShort b).bufByte i = s.bufByte i := rfl
    cases hv : s.bufByte i with
    | none => simp only [blockLoop, hbyte, hv]; rfl
    | some v =>
      simp only [blockLoop, hbyte, hv, touchByteSeq_setShort]
      exact ih ((touchByteSeq v s).2.writeBuf i (touchByteSeq v s).1) (i + 1)

variable {s}

/-- The LastDeviceFlag exit leaves SHORT as it finds it. -/
theorem search_setShort_of_ldf (rc : Byte) (h : s.ldf = true) :
    search rc (s.setShort b) = ((search rc s).1, (search rc s).2.setShort b) := by
  cases hexit : s.params.ldfExitResets <;>
    simp only [search, State.setShort_ldf, State.setShort_params, h, hexit, if_true, if_false,
      Bool.false_eq_true]
  rfl

/-- A pass that runs begins with the bus reset, which overwrites SHORT. -/
theorem search_setShort_of_not_ldf (rc : Byte) (h : s.ldf = false) :
    search rc (s.setShort b) = search rc s := by
  simp only [search, State.setShort_ldf, h, Bool.false_eq_true, if_false, busResetSeq_setShort]

end

/-! ### The operations -/

/-- Run with another value of SHORT, the procedure returns the same value and leaves the same state, SHORT
alone apart. -/
def IgnoresShort (body : State → Byte × State) : Prop :=
  ∀ s b, ∃ c, body (s.setShort b) = ((body s).1, (body s).2.setShort c)

theorem ignoresShort_of_commutes {body : State → Byte × State}
    (h : ∀ s b, body (s.setShort b) = ((body s).1, (body s).2.setShort b)) : IgnoresShort body :=
  fun s b => ⟨b, h s b⟩

theorem ignoresShort_searchOp (rc : Byte) : IgnoresShort (searchOp rc) := by
  intro s b
  cases hldf : s.ldf with
  | true => exact ⟨b, by simp only [searchOp, search_setShort_of_ldf b rc hldf]⟩
  | false =>
    refine ⟨(searchOp rc s).2.short, ?_⟩
    simp only [searchOp, search_setShort_of_not_ldf b rc hldf]
    rfl

theorem ignoresShort_searchOp_after_reset (rc : Byte) :
    IgnoresShort fun s => searchOp rc (searchStateReset s) :=
  fun s b => ignoresShort_searchOp rc (searchStateReset s) b

/-- Completing from a state with another value of SHORT, the instruction leaves the same state, SHORT alone
apart. -/
def ExecIgnoresShort (i : Instr) : Prop :=
  ∀ s t b, exec i s = .next t → ∃ c, exec i (s.setShort b) = .next (t.setShort c)

section
variable {i : Instr} {body : State → Byte × State}

/-- An operation ignores SHORT when its pseudocode does: acceptance and completion touch HSR and RESULT
only. -/
theorem execIgnoresShort_of_body (hexec : ∀ s, exec i s = operate body s) (hbody : IgnoresShort body) :
    ExecIgnoresShort i := by
  intro s t b h
  obtain rfl := Host.Outcome.next.inj ((hexec s).symm.trans h)
  obtain ⟨c, hc⟩ := hbody (accept s) b
  have he : operate body (s.setShort b) = _ := operate_of_eq hc
  exact ⟨c, (hexec _).trans he⟩

theorem execIgnoresShort_of_commutes (hexec : ∀ s, exec i s = operate body s)
    (hbody : ∀ s b, body (s.setShort b) = ((body s).1, (body s).2.setShort b)) : ExecIgnoresShort i :=
  execIgnoresShort_of_body hexec (ignoresShort_of_commutes hbody)

end

theorem execIgnoresShort_busReset : ExecIgnoresShort .busReset :=
  execIgnoresShort_of_body exec_busReset fun s _ =>
    ⟨(busResetSeq s).2.short, by simp only [busResetSeq_setShort]; rfl⟩

theorem execIgnoresShort_detect : ExecIgnoresShort .detect := by
  refine execIgnoresShort_of_commutes exec_detect fun s b => ?_
  simp only [bridgeResetSeq_setShort]
  rcases bridgeResetSeq s with ⟨_ | _, s1⟩
  · rfl
  · simp only [writeConfigSeq_setShort]

theorem execIgnoresShort_writeBitPower (r : Bool) : ExecIgnoresShort (.writeBitPower r) := by
  refine execIgnoresShort_of_commutes (exec_writeBitPower · r) fun s b => ?_
  simp only [State.setShort_cfg, writeConfigSeq_setShort]
  rcases writeConfigSeq (withStrongPullup s.cfg) s with ⟨_ | _, s1⟩
  · rfl
  · simp only [State.setShort_params, touchBitSeq_setShort, setLevelSeq_setShort]
    split <;> rfl

theorem execIgnoresShort_writeBytePower (v : Byte) : ExecIgnoresShort (.writeBytePower v) := by
  refine execIgnoresShort_of_commutes (exec_writeBytePower · v) fun s b => ?_
  simp only [State.setShort_cfg, writeConfigSeq_setShort]
  rcases writeConfigSeq (withStrongPullup s.cfg) s with ⟨_ | _, s1⟩
  · rfl
  · simp only [writeByteSeq_setShort]

theorem execIgnoresShort_block (n : BitVec 9) : ExecIgnoresShort (.block n) := by
  intro s t b h
  have haccept : accept (s.setShort b) = (accept s).setShort b := rfl
  simp only [exec_block, execBlock, operateOrFault, haccept, blockLoop_setShort] at h ⊢
  cases hloop : blockLoop n.toNat 0 (accept s) with
  | error e => simp only [hloop, reduceCtorEq] at h
  | ok u =>
    simp only [hloop, Host.Outcome.next.injEq] at h
    subst h
    exact ⟨b, rfl⟩

/-- SEARCH_FIRST and ALARM_FIRST reset the Search State before their pass, SHORT not being part of it. -/
theorem execIgnoresShort_of_isSearch {i : Instr} (hi : i.isSearch = true) : ExecIgnoresShort i := by
  cases i with
  | searchFirst | alarmFirst =>
    exact execIgnoresShort_of_body (fun _ => rfl) (ignoresShort_searchOp_after_reset _)
  | searchNext | alarmNext =>
    exact execIgnoresShort_of_body (fun _ => rfl) (ignoresShort_searchOp _)
  | _ => cases hi

/-- The pseudocode of each operation ignores SHORT, and a bridge row is one frame. -/
theorem execIgnoresShort (i : Instr) : ExecIgnoresShort i := by
  cases i with
  | bridgeReset => exact execIgnoresShort_of_commutes exec_bridgeReset fun _ _ => rfl
  | detect => exact execIgnoresShort_detect
  | writeConfig c =>
    exact execIgnoresShort_of_commutes (exec_writeConfig · c) fun _ _ => by
      simp only [writeConfigSeq_setShort]
  | busReset => exact execIgnoresShort_busReset
  | touchBit v =>
    exact execIgnoresShort_of_commutes (exec_touchBit · v) fun _ _ => by simp only [touchBitSeq_setShort]
  | writeBit v =>
    exact execIgnoresShort_of_commutes (exec_writeBit · v) fun _ _ => by simp only [touchBitSeq_setShort]
  | readBit =>
    exact execIgnoresShort_of_commutes exec_readBit fun _ _ => by simp only [touchBitSeq_setShort]
  | writeByte v =>
    exact execIgnoresShort_of_commutes (exec_writeByte · v) fun _ _ => by simp only [writeByteSeq_setShort]
  | readByte => exact execIgnoresShort_of_commutes exec_readByte readByteSeq_setShort
  | touchByte v => exact execIgnoresShort_of_commutes (exec_touchByte · v) (touchByteSeq_setShort · · v)
  | block n => exact execIgnoresShort_block n
  | setLevel l => exact execIgnoresShort_of_commutes (exec_setLevel · l) (setLevelSeq_setShort · · l)
  | writeBitPower r => exact execIgnoresShort_writeBitPower r
  | writeBytePower v => exact execIgnoresShort_writeBytePower v
  | crcClear => exact execIgnoresShort_of_commutes exec_crcClear fun _ _ => rfl
  | crcUpdate v => exact execIgnoresShort_of_commutes (exec_crcUpdate · v) fun _ _ => rfl
  | searchFirst | searchNext | alarmFirst | alarmNext => exact execIgnoresShort_of_isSearch rfl
  | triplet d =>
    exact execIgnoresShort_of_commutes (exec_triplet · d) fun s b => commandWait_setShort s b _ _
  | bridgeWriteByteWithPower => rintro s t b ⟨⟩
  | bridgeDeviceReset | bridgeWriteConfig _ | bridgeBusReset | bridgeSingleBit _ | bridgeWriteByte _
  | bridgeReadByte | bridgeSetReadPointer | bridgeTriplet _ =>
    rintro s t b ⟨⟩
    exact ⟨b, rfl⟩

/-- Settles O33. -/
theorem shortIsNeverRead : Obligations.ShortIsNeverRead :=
  fun s t i b => execIgnoresShort i s t b

end Sys2Proof.Machine
end

section
/-! The CRC-8 validator (43_crc.md): the bitwise form computes the table, the fold is injective in its
accumulator, and so every change of a single byte shows. -/

namespace Sys2Proof.Machine

/-! ### CRC_CLEAR and CRC_UPDATE (43_crc.md R140, R141) -/

/-- An operation whose pseudocode issues no frame and writes CRC8. -/
theorem operate_setCrc8 {body : State → Byte × State} {s : State} {v c : Byte}
    (h : body (accept s) = (v, (accept s).setCrc8 c)) :
    operate body s = .next { completed s [] v with crc8 := c } := by
  rw [operate_of_eq h, complete_eq rfl, completed, State.answered_nil]
  rfl

/-- Settles O34: neither operation waits on the bridge, and each writes CRC8 alone. -/
theorem crcOperationsOutcome : Obligations.CrcOperationsOutcome := fun s v =>
  ⟨(exec_crcClear s).trans (operate_setCrc8 rfl),
    (exec_crcUpdate s v).trans (operate_setCrc8 (body := crcStep v) rfl)⟩

/-! ### The bitwise form (43_crc.md R142) -/

/-- One turn sees c and v only through their sum, but for the bits of v still to come. -/
theorem crcShift_xor_zero (c v : Byte) : crcShift (c ^^^ v) 0#8 = crcShift c v ^^^ v >>> 1 := by
  have hshift : (c ^^^ v) >>> 1 = c >>> 1 ^^^ v >>> 1 := BitVec.ushiftRight_xor_distrib c v 1
  unfold crcShift
  rw [BitVec.xor_zero, hshift]
  split
  · rw [BitVec.xor_assoc, BitVec.xor_comm (v >>> 1), BitVec.xor_assoc]
  · rfl

/-- k turns on c and v are k turns on their sum alone, but for the bits of v those turns did not take. -/
theorem crcBitwise_xor_zero (k : Nat) (c v : Byte) :
    crcBitwise k (c ^^^ v) 0#8 = crcBitwise k c v ^^^ v >>> k := by
  induction k generalizing c v with
  | zero => rfl
  | succ k ih =>
    calc crcBitwise (k + 1) (c ^^^ v) 0#8
        = crcBitwise k (crcShift c v ^^^ v >>> 1) 0#8 := by rw [← crcShift_xor_zero]; rfl
      _ = crcBitwise (k + 1) c v ^^^ v >>> (k + 1) := by
          rw [ih, ← BitVec.shiftRight_add, Nat.add_comm 1 k]; rfl

/-- The table is the bitwise form run on each index, as 43_crc.md R142 generates it. -/
theorem crcBitwise_zero_eq_crcEntry : ∀ x : Byte, crcBitwise 8 x 0#8 = crcEntry x := by decide

/-- Settles O35: eight turns take every bit of v, so they see c ^ v alone, and the table lists those 256
values. -/
theorem crcBitwiseAgreesWithTable : Obligations.CrcBitwiseAgreesWithTable := by
  intro c v
  have hv : v >>> 8 = 0#8 := BitVec.ushiftRight_eq_zero (le_refl 8)
  rw [← crcBitwise_zero_eq_crcEntry, crcBitwise_xor_zero, hv, BitVec.xor_zero]

/-! ### Bytes followed by their CRC (43_crc.md R143) -/

/-- Settles O36: the last byte meets itself in the accumulator, and T[0] is 0. -/
theorem crcOfBytesAndTheirCrcIsZero : Obligations.CrcOfBytesAndTheirCrcIsZero := by
  intro bs _
  rw [crcFold_append, crcFold, BitVec.xor_self]
  rfl

/-! ### A changed byte shows (43_crc.md R144) -/

/-- The turn backwards: bit 7 tells whether 0x8C was added, which is the bit that was shifted out. -/
def crcUnshift (x : Byte) : Byte :=
  if x.getLsbD 7 then (x ^^^ 0x8C) <<< 1 ||| 1 else x <<< 1

theorem crcUnshift_crcShift : ∀ x : Byte, crcUnshift (crcShift x 0#8) = x := by decide

theorem crcBitwise_injective (k : Nat) : (crcBitwise k · 0#8).Injective := by
  induction k with
  | zero => exact Function.injective_id
  | succ k ih =>
    exact ih.comp (Function.LeftInverse.injective crcUnshift_crcShift)

theorem crcEntry_injective : crcEntry.Injective := by
  rw [← funext crcBitwise_zero_eq_crcEntry]
  exact crcBitwise_injective 8

/-- Folding the same bytes keeps two accumulators apart. -/
theorem crcFold_injective (bs : List Byte) : (crcFold · bs).Injective := by
  induction bs with
  | nil => exact Function.injective_id
  | cons b bs ih =>
    intro c d h
    exact BitVec.xor_left_inj b |>.mp (crcEntry_injective (ih h))

/-- Another value of one byte gives another accumulator there, and the bytes after it keep the two apart. -/
theorem crcFold_modify_ne {f : Byte → Byte} (hf : ∀ x, f x ≠ x) (c : Byte) (bs : List Byte) (i : Nat)
    (hi : i < bs.length) : crcFold c (bs.modify i f) ≠ crcFold c bs := by
  induction bs generalizing c i with
  | nil => cases hi
  | cons b bs ih =>
    cases i with
    | zero =>
      intro h
      exact hf b (BitVec.xor_right_inj c |>.mp (crcEntry_injective (crcFold_injective bs h)))
    | succ i => exact ih _ i (Nat.lt_of_succ_lt_succ hi)

theorem xor_bit_ne {k : Nat} (hk : k < 8) (x : Byte) : x ^^^ (1#8 <<< k) ≠ x := by
  intro h
  have hbit := congrArg (BitVec.getLsbD · k) h
  simp [hk] at hbit

/-- Settles O37: a flipped bit is a changed byte. -/
theorem crcDetectsSingleBitFlip : Obligations.CrcDetectsSingleBitFlip := by
  refine ⟨fun bs i k hlen hvalid hi hk => ?_, by decide⟩
  have hi' : i < bs.length := hlen ▸ hi
  exact fun hzero => crcFold_modify_ne (xor_bit_ne hk) 0x00 bs i hi' (hzero.trans hvalid.symm)

end Sys2Proof.Machine
end

section
/-! The search operations on any bridge (44_search.md R151, R152, R158, R160 to R164, R169): the ways a pass
ends without its loop, and the registers it leaves alone. -/

namespace Sys2Proof.Machine

/-- SEARCH_NEXT and ALARM_NEXT complete with what one pass on the accepted state gives (44_search.md R161,
R163). -/
theorem exec_pass_search {i : Instr} {rc : Byte} (hi : PassOperation i rc) (s : State) :
    exec i s =
      .next (complete (bitByte (search rc (accept s)).1) (search rc (accept s)).2) :=
  exec_pass hi rfl

/-- The LastDeviceFlag exit (44_search.md R151). -/
theorem exec_pass_of_ldf {i : Instr} {rc : Byte} (hi : PassOperation i rc) {s : State}
    (hldf : s.ldf = true) :
    exec i s = .next
      (complete 0x00 (if s.params.ldfExitResets then searchStateReset (accept s) else accept s)) := by
  rcases search_cases rc (accept s) with ⟨-, he⟩ | ⟨h, -⟩
  · exact exec_pass hi he
  · exact absurd (h.symm.trans hldf) Bool.false_ne_true

/-- Settles O38: the exit issues no frame, and the parameter decides whether it resets the Search State. -/
theorem lastDeviceExit : Obligations.LastDeviceExit := by
  intro s i rc hi hldf
  rw [exec_pass_of_ldf hi hldf, completed, State.answered_nil]
  split
  · rw [complete_eq rfl]; rfl
  · rw [complete_eq rfl]; rfl

/-- The end of a pass writes the Search State and CRC8 alone (44_search.md R157, R159). -/
theorem finishPass_state (c : Cursor) (s : State) :
    (finishPass c s).2 =
      { s with
        ld := (finishPass c s).2.ld, lfd := (finishPass c s).2.lfd, ldf := (finishPass c s).2.ldf,
        crc8 := (finishPass c s).2.crc8 } := by
  rcases finishPass_cases c s with ⟨-, -, -, he⟩ | ⟨-, he⟩
  · rw [he, recordSuccess_eq]
  · rw [he, searchStateReset_eq]

/-- Settles O39: a pass without presence ends after its bus reset; any other goes on with the ROM command, and
nothing after the bus reset writes SHORT. -/
theorem noPresenceResetsSearchState : Obligations.NoPresenceResetsSearchState := by
  intro s i rc hi hldf
  rcases search_cases rc (accept s) with ⟨h, -⟩ | ⟨-, S, fs, hw, hcases⟩
  · exact absurd (hldf.symm.trans h) Bool.false_ne_true
  refine ⟨S, fs, hw, fun habsent => ?absent, fun hpresent => ?present⟩
  case absent =>
    rcases hcases with ⟨-, he⟩ | ⟨h, -⟩
    · rw [exec_pass hi he, complete_eq rfl]; rfl
    · exact absurd (habsent.symm.trans h) Bool.false_ne_true
  case present =>
    rcases hcases with ⟨h, -⟩ | ⟨-, T, gs, hg, he⟩
    · exact absurd (h.symm.trans hpresent) Bool.false_ne_true
    obtain ⟨hs, hpass, -⟩ := searchLoop_spec 64 Cursor.start (passStart (accept s) S fs gs)
      (le_refl 1) (le_refl 65) (crcBefore_passStart _ _ _ _)
    have hgs : gs ≠ [] := List.ne_nil_of_length_pos (waited_length hg).1
    refine ⟨gs ++ hs, _, exec_pass_search hi s, ?_, by simp [hgs], ?_⟩
    · rw [he, finishPass_state, hpass]
      simp [complete, passStart, accept]
    · rw [he, finishPass_state, hpass]
      rfl

/-- Settles O41: a pass writes its own registers, and a pass from the root resets some of them first. -/
theorem searchWritesOnlyItsRegisters : Obligations.SearchWritesOnlyItsRegisters := by
  intro s i hi
  obtain ⟨fs, v, t, -, hwritten, -, hexec⟩ := exec_search_spec hi s
  have hresult : t.result = v := by rw [hwritten]; rfl
  exact ⟨fs, t, hexec, hresult ▸ hwritten⟩

/-- Settles O45: the snapshot of the wait is the result, and no register but RESULT and HSR is written. -/
theorem tripletOutcome : Obligations.TripletOutcome := by
  intro s d
  obtain ⟨S, fs, hw, he⟩ := commandWait_cases s.params.cmd1wt (some (bitArg d)) (accept s)
  exact ⟨S, fs, hw, (exec_triplet s d).trans (operate_answered he)⟩

/-- Settles O40: acceptance and the reset of the Search State write different registers. -/
theorem firstIsNextFromTheRoot : Obligations.FirstIsNextFromTheRoot :=
  fun _ => ⟨rfl, rfl⟩

end Sys2Proof.Machine
end

section
/-! A pass whose bus reset and ROM command are answered at once and show presence (44_search.md R150 to R159):
its loop runs from a state that is known, and its end is an equation. -/

namespace Sys2Proof.Machine

/-! ### The start of such a pass -/

/-- The frames before the loop: the bus reset and the ROM command (44_search.md R152). -/
def startFrames (s : State) (rc : Byte) : List Frame :=
  [.txn s.params.cmd1wrs none (s.answer 0), .txn s.params.cmd1wwb (some rc) (s.answer 1)]

/-- The state in which the loop starts. -/
def idleStart (s : State) (rc : Byte) : State :=
  passStart (accept s) (s.answer 0) [.txn s.params.cmd1wrs none (s.answer 0)]
    [.txn s.params.cmd1wwb (some rc) (s.answer 1)]

@[simp] theorem idleStart_answer (s : State) (rc : Byte) (k : Nat) :
    (idleStart s rc).answer k = s.answer (2 + k) :=
  passStart_answer _ _ _ _ k

@[simp] theorem steering_idleStart (s : State) (rc : Byte) (p : Nat) :
    steering (idleStart s rc) p = steering s p := rfl

section
variable {s u : State} {rc : Byte} {fs : List Frame}

/-- The pass found nothing: what is left when its loop issued the frames fs and ended in u. -/
theorem complete_searchStateReset (h : PassFrom (idleStart s rc) fs u) (v : Byte) :
    complete v (searchStateReset u) =
      { completed s (startFrames s rc ++ fs) v with
        short := stShort (s.answer 0), ld := 0, lfd := 0, ldf := false, crc8 := 0x00, rom := u.rom,
        romSet := u.romSet } := by
  rw [completed, ← State.answered_answered, h, complete_eq rfl]
  rfl

/-- The pass found a device. -/
theorem complete_recordSuccess (h : PassFrom (idleStart s rc) fs u) (c : Cursor) (v : Byte) :
    complete v (recordSuccess c u) =
      { completed s (startFrames s rc ++ fs) v with
        short := stShort (s.answer 0)
        ld := BitVec.ofNat 7 c.lastZero
        lfd := u.lfd
        ldf := if c.lastZero = 0 then true else s.ldf
        crc8 := u.crc8
        rom := u.rom
        romSet := u.romSet } := by
  rw [completed, ← State.answered_answered, recordSuccess_eq, h, complete_eq rfl]
  rfl

end

/-! ### The end of such a pass -/

/-- ROM holds eight bytes that fold to zero, and a family code other than 0x00 (44_search.md R157, R159). -/
def RomValid (s : State) : Prop := crcFold 0x00 s.rom.toList = 0x00 ∧ s.romByte 0 ≠ 0x00

section
variable {i : Instr} {rc : Byte} {s : State}
  (hi : PassOperation i rc) (hldf : s.ldf = false) (hidle : Idle s 2)
  (hpresence : (s.answer 0).getLsbD 1 = true)
include hi hldf hidle hpresence

theorem exec_pass_of_loop {c : Cursor} {u : State}
    (hloop : searchLoop 64 Cursor.start (idleStart s rc) = (c, u)) :
    exec i s = .next (complete (bitByte (finishPass c u).1) (finishPass c u).2) := by
  have he : search rc (accept s) = finishPass c u := by
    rw [search_of_idle (s := accept s) hldf hidle hpresence]
    exact congrArg (fun r => finishPass r.1 r.2) hloop
  rw [exec_pass_search hi, he]

/-- Fewer than 64 bits were processed: the pass found nothing (44_search.md R155). -/
theorem exec_pass_of_aborted_loop {c : Cursor} {u : State}
    (hloop : searchLoop 64 Cursor.start (idleStart s rc) = (c, u)) (hc : c.idBitNumber ≠ 65) :
    exec i s = .next (complete 0x00 (searchStateReset u)) := by
  rw [exec_pass_of_loop hi hldf hidle hpresence hloop]
  rcases finishPass_cases c u with ⟨h, -⟩ | ⟨-, he⟩
  · exact absurd h hc
  · rw [he]; rfl

/-- All 64 bits were processed: the identifier decides (44_search.md R157, R159). -/
theorem exec_pass_of_complete_loop
    (hresp : ∀ k < 64, noneResponded (loopSnapshot (idleStart s rc) k) = false) :
    (RomValid (loopState (idleStart s rc) 64) → (loopState (idleStart s rc) 64).crc8 = 0x00 ∧
      exec i s = .next (complete 0x01
        (recordSuccess (loopCursor (idleStart s rc) 64) (loopState (idleStart s rc) 64)))) ∧
    (¬RomValid (loopState (idleStart s rc) 64) →
      exec i s = .next (complete 0x00 (searchStateReset (loopState (idleStart s rc) 64)))) := by
  have hcrc := crc8_of_crcBefore (loopState_crcBefore (idleStart s rc) 64 (le_refl 64) rfl)
  have h65 := loopCursor_idBitNumber (idleStart s rc) 64
  have hexec := exec_pass_of_loop hi hldf hidle hpresence (searchLoop_complete _ 64 hresp)
  rcases finishPass_cases (loopCursor (idleStart s rc) 64) (loopState (idleStart s rc) 64) with
    ⟨-, hzero, hfamily, he⟩ | ⟨hn, he⟩
  · rw [he] at hexec
    exact ⟨fun _ => ⟨hzero, hexec⟩, fun h => absurd ⟨hcrc.symm.trans hzero, hfamily⟩ h⟩
  · rw [he] at hexec
    exact ⟨fun h => absurd ⟨h65, hcrc.trans h.1, h.2⟩ hn, fun _ => hexec⟩

end

/-! ### ROM after all 64 positions -/

theorem vector_eq_replicate {v : Vector Byte 8} {x : Byte} (h : ∀ i < 8, v.getD i 0 = x) :
    v = Vector.replicate 8 x := by
  ext1 i hi
  simpa [Vector.getD, hi] using h i hi

/-- Every bit of ROM counts as written. -/
theorem loopState_romSet (s : State) : (loopState s 64).romSet = Vector.replicate 8 0xFF := by
  refine vector_eq_replicate fun i hi => State.romSetByte_eq_ones _ i fun k hk => ?_
  rw [loopState_romBitSet s 64 _ (le_refl 64) (by omega), if_pos (by omega)]

theorem loopCursor_lastZero_succ (s : State) (n : Nat) :
    (loopCursor s (n + 1)).lastZero =
      if tookZeroBranch (loopSnapshot s n) then n + 1 else (loopCursor s n).lastZero := by
  simp only [loopCursor, Cursor.advanced, loopCursor_idBitNumber, Cursor.probed]

/-- A triplet writes no register. -/
theorem probe_snd (s : State) (n : Nat) : ∃ fs, (probe s n).2 = s.answered fs := by
  obtain ⟨S, fs, -, he⟩ := commandWait_cases s.params.cmd1wt (some (bitArg (steering s (n + 1)))) s
  exact ⟨fs, by rw [probe, he]⟩

theorem loopState_lfd_succ (s : State) (n : Nat) :
    (loopState s (n + 1)).lfd =
      if tookZeroBranch (loopSnapshot s n) ∧ n + 1 ≤ 8 then BitVec.ofNat 4 (n + 1)
      else (loopState s n).lfd := by
  obtain ⟨fs, he⟩ := probe_snd (loopState s n) n
  rw [loopState, bitTaken_lfd, he]
  rfl

/-- LFD takes the last zero-branch position within the first eight, if any (44_search.md R154). -/
theorem loopState_lfd (s : State) (n : Nat) :
    (loopState s n).lfd =
      if (loopCursor s (min n 8)).lastZero = 0 then s.lfd
      else BitVec.ofNat 4 (loopCursor s (min n 8)).lastZero := by
  induction n with
  | zero => rfl
  | succ n ih =>
    rw [loopState_lfd_succ]
    by_cases hn : n + 1 ≤ 8
    · rw [min_eq_left (by omega)] at ih
      rw [min_eq_left hn, loopCursor_lastZero_succ, ih]
      cases tookZeroBranch (loopSnapshot s n) <;> simp [hn]
    · rw [if_neg fun h => hn h.2, ih, min_eq_right (by omega), min_eq_right (by omega)]

/-! ### A bridge that is never busy -/

/-- The triplet of position n + 1 is one frame, steered as the pass began. -/
theorem probe_loopState_of_idle {s : State} {n : Nat} (hn : n < 64) (h : Idle s (n + 1)) :
    probe (loopState s n) n =
      (s.answer n, (loopState s n).answered
        [.txn s.params.cmd1wt (some (bitArg (steering s (n + 1)))) (s.answer n)]) := by
  have hpass := (loopState_idle s n (by omega) fun k hk => h k (by omega)).1
  have hanswer : (loopState s n).answer 0 = s.answer n := by
    rw [hpass.answer]; simp [idleFrames]
  have hsteer : steering (loopState s n) (n + 1) = steering s (n + 1) := by
    unfold steering
    rw [hpass.ld, loopState_romBit s n _ (by omega) (by omega), if_neg (by omega : ¬n + 1 ≤ n)]
  have hbusy : stBusy ((loopState s n).answer 0) = false := hanswer ▸ h n (by omega)
  rw [probe, commandWait_idle _ _ hbusy, hanswer, hsteer, hpass.params]

theorem passFrom_probe {s : State} {n : Nat} (hn : n < 64) (h : Idle s (n + 1)) :
    PassFrom s (idleFrames s (n + 1)) (probe (loopState s n) n).2 := by
  rw [probe_loopState_of_idle hn h, idleFrames, List.range_succ, List.map_append]
  exact (loopState_idle s n (by omega) fun k hk => h k (by omega)).1.trans rfl

/-- A pass that runs n triplets issues the two frames before the loop and one per position. -/
theorem startFrames_append_idleFrames (s : State) (rc : Byte) (n : Nat) :
    startFrames s rc ++ idleFrames (idleStart s rc) n = passFrames s rc n := by
  unfold passFrames idleFrames
  congr 1
  refine List.map_congr_left fun k _ => ?_
  rw [idleStart_answer, steering_idleStart, Nat.add_comm 2 k]
  rfl

section
variable {s : State} (rc : Byte) {n : Nat} (hn : n ≤ 64) (hidle : Idle s (n + 2))
include hidle

theorem idle_idleStart : Idle (idleStart s rc) n := fun k hk => by
  rw [idleStart_answer]
  exact hidle _ (by omega)

include hn

theorem passFrom_idleStart :
    PassFrom (idleStart s rc) (idleFrames (idleStart s rc) n) (loopState (idleStart s rc) n) :=
  (loopState_idle _ n hn (idle_idleStart rc hidle)).1

/-- The snapshot of a position is the answer to its triplet. -/
theorem loopSnapshot_idleStart {p : Nat} (h1 : 1 ≤ p) (hp : p ≤ n) :
    loopSnapshot (idleStart s rc) (p - 1) = tripletAnswer s p := by
  rw [(loopState_idle _ n hn (idle_idleStart rc hidle)).2 _ (by omega), idleStart_answer,
    show 2 + (p - 1) = p + 1 by omega]
  rfl

/-- ROM takes the directions taken. -/
theorem loopState_idleStart_romBit {q : Nat} (h1 : 1 ≤ q) :
    (loopState (idleStart s rc) n).romBit q =
      if q ≤ n then stDirection (tripletAnswer s q) else s.romBit q := by
  rw [loopState_romBit _ n q hn h1]
  split
  · rename_i hq
    rw [loopSnapshot_idleStart rc hn hidle h1 hq]
  · rfl

theorem lastZeroBranch_loopCursor {m : Nat} (hm : m ≤ n) :
    LastZeroBranch s m (loopCursor (idleStart s rc) m).lastZero := by
  obtain ⟨hle, hzero, hlast⟩ := loopCursor_lastZero (idleStart s rc) m
  refine ⟨hle, fun hpos => ?_, fun p hp hp' => ?_⟩
  · rw [← loopSnapshot_idleStart rc hn hidle hpos (by omega)]
    exact hzero hpos
  · rw [← loopSnapshot_idleStart rc hn hidle (by omega) (by omega)]
    exact hlast p hp hp'

end

/-- Settles O42: the loop takes all 64 positions, and its end is the accepted or the rejected one. -/
theorem completePassOutcome : Obligations.CompletePassOutcome := by
  intro s i rc hi hldf hidle hpresence hresp
  have hidle2 : Idle s 2 := fun k hk => hidle k (by omega)
  have hpass := passFrom_idleStart rc (le_refl 64) hidle
  obtain ⟨haccept, hreject⟩ := exec_pass_of_complete_loop hi hldf hidle2 hpresence fun k hk => by
    rw [show k = k + 1 - 1 from rfl, loopSnapshot_idleStart rc (le_refl 64) hidle (by omega) (by omega)]
    exact hresp (k + 1) (by omega) (by omega)
  have hrom : ∀ p, 1 ≤ p → p ≤ 64 →
      (loopState (idleStart s rc) 64).romBit p = (tripletAnswer s p).getLsbD 7 := fun p h1 hp => by
    rw [loopState_idleStart_romBit rc (le_refl 64) hidle h1, if_pos hp]
    rfl
  have hz64 := lastZeroBranch_loopCursor rc (le_refl 64) hidle (le_refl 64)
  have hz8 := lastZeroBranch_loopCursor rc (le_refl 64) hidle (m := 8) (by omega)
  by_cases hvalid : RomValid (loopState (idleStart s rc) 64)
  · obtain ⟨hcrc, hexec⟩ := haccept hvalid
    rw [complete_recordSuccess hpass, startFrames_append_idleFrames, hcrc, loopState_romSet] at hexec
    refine ⟨_, _, _, hexec, hz64, hz8, rfl, hrom, fun _ => ⟨rfl, ?ld, ?ldf, ?lfd⟩,
      fun h => absurd hvalid h⟩
    case ld => rw [BitVec.toNat_ofNat, Nat.mod_eq_of_lt (Nat.lt_of_le_of_lt hz64.1 (by decide))]
    case ldf =>
      by_cases hzero : (loopCursor (idleStart s rc) 64).lastZero = 0
      · exact (if_pos hzero).trans (decide_eq_true hzero).symm
      · exact (if_neg hzero).trans (hldf.trans (decide_eq_false hzero).symm)
    case lfd => exact loopState_lfd (idleStart s rc) 64
  · have hexec := hreject hvalid
    rw [complete_searchStateReset hpass, startFrames_append_idleFrames, loopState_romSet] at hexec
    exact ⟨_, _, _, hexec, hz64, hz8, rfl, hrom, fun h => absurd h hvalid,
      fun _ => ⟨rfl, rfl, rfl, rfl⟩⟩

/-- Settles O43: the loop takes the positions before p, and the triplet at p ends it with nothing written. -/
theorem abortedPassOutcome : Obligations.AbortedPassOutcome := by
  intro s i rc p hi hldf hidle hpresence h1 hp hnone hresp
  obtain ⟨n, rfl⟩ : ∃ n, p = n + 1 := ⟨p - 1, by omega⟩
  have hsnap {k : Nat} (hk : k ≤ n) : loopSnapshot (idleStart s rc) k = tripletAnswer s (k + 1) :=
    loopSnapshot_idleStart rc hp hidle (p := k + 1) (by omega) (by omega)
  have hloop := searchLoop_aborted (idleStart s rc) n (63 - n)
    (fun k hk => by rw [hsnap (by omega)]; exact hresp (k + 1) (by omega) (by omega))
    (by rw [hsnap (le_refl n)]; exact hnone)
  rw [show n + (63 - n + 1) = 64 by omega] at hloop
  have hc : ((loopCursor (idleStart s rc) n).probed (loopSnapshot (idleStart s rc) n)).idBitNumber ≠ 65 := by
    rw [Cursor.probed, loopCursor_idBitNumber]
    omega
  have hexec := exec_pass_of_aborted_loop hi hldf (fun k hk => hidle k (by omega)) hpresence hloop hc
  rw [complete_searchStateReset (passFrom_probe (by omega) (idle_idleStart rc hidle)),
    startFrames_append_idleFrames] at hexec
  obtain ⟨fs, hprobe⟩ := probe_snd (loopState (idleStart s rc) n) n
  have hrom {q : Nat} (hq : 1 ≤ q) : (probe (loopState (idleStart s rc) n) n).2.romBit q =
      if q ≤ n then stDirection (tripletAnswer s q) else s.romBit q := by
    rw [hprobe, ← loopState_idleStart_romBit rc (by omega) (fun k hk => hidle k (by omega)) hq]
    rfl
  refine ⟨_, hexec, rfl, fun q hq hqp => ?before, fun q hq _ => ?after⟩
  case before => exact (hrom hq).trans (if_pos (by omega))
  case after => exact (hrom (by omega)).trans (if_neg (by omega))

end Sys2Proof.Machine
end

section
/-! A pass whose every triplet times out (44_search.md R168): each position takes the sentinel 0x00 and one
device reset, so ROM is written with zeros and the identifier is rejected. -/

namespace Sys2Proof.Machine

/-- The frames of the triplet at position n + 1, in a loop that starts in s, when it times out. -/
def timeoutFrames (s : State) (n : Nat) : List Frame :=
  pollFrames (loopState s n) s.params.cmd1wt (some (bitArg (steering (loopState s n) (n + 1))))
    s.params.pollLimit ++ [resetFrame (loopState s n) (s.params.pollLimit + 1)]

/-- The frames of the first n positions when every triplet times out. -/
def timeoutLoopFrames (s : State) : Nat → List Frame
  | 0 => []
  | n + 1 => timeoutLoopFrames s n ++ timeoutFrames s n

/-- The triplet of each of the first n positions finds the bridge busy at every poll. -/
def AllTimeOut (s : State) (n : Nat) : Prop :=
  ∀ j < n, ∀ k ≤ s.params.pollLimit, stBusy (s.answer (j * (s.params.pollLimit + 2) + k)) = true

@[simp] theorem timeoutFrames_length (s : State) (n : Nat) :
    (timeoutFrames s n).length = s.params.pollLimit + 2 := by
  simp [timeoutFrames]

@[simp] theorem timeoutLoopFrames_length (s : State) (n : Nat) :
    (timeoutLoopFrames s n).length = n * (s.params.pollLimit + 2) := by
  induction n with
  | zero => simp [timeoutLoopFrames]
  | succ n ih => simp [timeoutLoopFrames, ih, Nat.add_mul]

theorem timeoutFrames_last (s : State) (n : Nat) :
    (timeoutFrames s n)[s.params.pollLimit + 1]? =
      some (resetFrame (loopState s n) (s.params.pollLimit + 1)) := by
  simp [timeoutFrames]

/-- The loop when every triplet times out: each snapshot is the sentinel. -/
theorem loopState_timeouts {s : State} {n : Nat} (h : AllTimeOut s n) :
    PassFrom s (timeoutLoopFrames s n) (loopState s n) ∧ ∀ k < n, loopSnapshot s k = 0x00 := by
  induction n with
  | zero => exact ⟨PassFrom.refl s, fun k hk => absurd hk (Nat.not_lt_zero k)⟩
  | succ n ih =>
    obtain ⟨hpass, hsnap⟩ := ih fun j hj => h j (by omega)
    have hbusy : ∀ k ≤ (loopState s n).params.pollLimit, stBusy ((loopState s n).answer k) = true := by
      intro k hk
      rw [hpass.params] at hk
      rw [hpass.answer, timeoutLoopFrames_length]
      exact h n (Nat.lt_succ_self n) k hk
    have hprobe : probe (loopState s n) n = (0x00, (loopState s n).answered (timeoutFrames s n)) := by
      refine commandWait_eq (.inr ⟨hbusy, rfl, ?_⟩)
      rw [timeoutFrames, hpass.params]
    refine ⟨?_, fun k hk => ?_⟩
    · rw [loopState, hprobe]
      exact hpass.trans (passFrom_bitTaken (n + 1) 0x00 _ _)
    · rcases Nat.lt_succ_iff_lt_or_eq.mp hk with hlt | rfl
      · exact hsnap k hlt
      · rw [loopSnapshot, hprobe]

/-- The last frame of each position is its device reset. -/
theorem timeoutLoopFrames_getElem? {s : State} {n j : Nat} (h : AllTimeOut s n) (hj : j < n) :
    (timeoutLoopFrames s n)[j * (s.params.pollLimit + 2) + (s.params.pollLimit + 1)]? =
      some (resetFrame s (j * (s.params.pollLimit + 2) + (s.params.pollLimit + 1))) := by
  induction n with
  | zero => exact absurd hj (Nat.not_lt_zero j)
  | succ n ih =>
    have h' : AllTimeOut s n := fun k hk => h k (by omega)
    rw [timeoutLoopFrames]
    rcases Nat.lt_succ_iff_lt_or_eq.mp hj with hlt | rfl
    · have hle : (j + 1) * (s.params.pollLimit + 2) ≤ n * (s.params.pollLimit + 2) :=
        Nat.mul_le_mul_right _ hlt
      rw [Nat.add_mul] at hle
      rw [List.getElem?_append_left (by rw [timeoutLoopFrames_length]; omega), ih h' hlt]
    · have hpass := (loopState_timeouts h').1
      rw [List.getElem?_append_right (by rw [timeoutLoopFrames_length]; omega),
        timeoutLoopFrames_length, Nat.add_sub_cancel_left, timeoutFrames_last, resetFrame, hpass.params,
        hpass.answer, timeoutLoopFrames_length]
      rfl

/-- The sentinel has the direction 0, so every byte of ROM is zero. -/
theorem loopState_rom_of_timeouts {s : State} (h : AllTimeOut s 64) :
    (loopState s 64).rom = Vector.replicate 8 0x00 := by
  refine vector_eq_replicate fun i hi => BitVec.eq_of_getLsbD_eq fun k hk => ?_
  have hbit := State.romByte_getLsbD (loopState s 64) i k hk
  rw [loopState_romBit s 64 _ (le_refl 64) (by omega), if_pos (by omega),
    (loopState_timeouts h).2 _ (by omega)] at hbit
  exact hbit.trans BitVec.getLsbD_zero.symm

/-- Settles O44: the bridge answers all 64 positions with timeouts, and the family code is 0x00. -/
theorem allTripletsTimeOut : Obligations.AllTripletsTimeOut := by
  intro s i rc hi hldf hidle hpresence hbusy
  have htimeout : AllTimeOut (idleStart s rc) 64 := fun j hj k hk => by
    rw [idleStart_answer, ← Nat.add_assoc]
    exact hbusy j hj k hk
  obtain ⟨hpass, hsnap⟩ := loopState_timeouts htimeout
  have hrom := loopState_rom_of_timeouts htimeout
  have hinvalid : ¬RomValid (loopState (idleStart s rc) 64) := fun h => by
    refine h.2 ?_
    rw [State.romByte, hrom]
    rfl
  have hexec := (exec_pass_of_complete_loop hi hldf hidle hpresence
    fun k hk => by rw [hsnap k hk]; rfl).2 hinvalid
  rw [complete_searchStateReset hpass, hrom, loopState_romSet] at hexec
  refine ⟨_, _, hexec, ?length, fun j hj => ?reset, rfl⟩
  case length =>
    rw [List.length_append, timeoutLoopFrames_length]
    rfl
  case reset =>
    have hlast := timeoutLoopFrames_getElem? htimeout hj
    rw [resetFrame, idleStart_answer, ← Nat.add_assoc, ← Nat.add_assoc] at hlast
    have hlength : (startFrames s rc).length = 2 := rfl
    rw [List.getElem?_append_right (by omega), hlength, Nat.add_assoc, Nat.add_sub_cancel_left]
    exact hlast

end Sys2Proof.Machine
end

section
/-! A pass over a faithful bridge (44_search.md R165): which device it ends on, and where that device stands in
the order of discovery. -/

namespace Sys2Proof.Machine

/-! ### Identifiers -/

theorem idBit_injective {d e : Identifier} (h : ∀ q, 1 ≤ q → q ≤ 64 → idBit d q = idBit e q) :
    d = e :=
  BitVec.eq_of_getLsbD_eq fun k hk => h (k + 1) (by omega) (by omega)

/-- Two identifiers that agree before position n are equal or differ at a first position from n on. -/
theorem eq_or_first_difference {d e : Identifier} (n : Nat)
    (hagree : ∀ q, 1 ≤ q → q < n → idBit d q = idBit e q) :
    d = e ∨ ∃ p, 1 ≤ p ∧ n ≤ p ∧ p ≤ 64 ∧ (∀ q, 1 ≤ q → q < p → idBit d q = idBit e q) ∧
      idBit d p ≠ idBit e p := by
  by_cases h : ∃ p, 1 ≤ p ∧ p ≤ 64 ∧ idBit d p ≠ idBit e p
  · right
    obtain ⟨h1, h64, hne⟩ := Nat.find_spec h
    refine ⟨Nat.find h, h1, ?_, h64, fun q hq hlt => ?_, hne⟩
    · by_contra hlt
      exact hne (hagree _ h1 (by omega))
    · by_contra hq'
      exact Nat.find_min h hlt ⟨hq, by omega, hq'⟩
  · left
    push Not at h
    exact idBit_injective h

/-- ROM holds at most one identifier. -/
theorem romHolds_unique {s : State} {d e : Identifier} (hd : RomHolds s d) (he : RomHolds s e) : d = e :=
  idBit_injective fun q h1 h64 => (hd q h1 h64).symm.trans (he q h1 h64)

/-- ROM is the identifier's eight bytes. -/
theorem rom_toList_of_romHolds {s : State} {d : Identifier} (h : RomHolds s d) : s.rom.toList = idBytes d := by
  rw [State.rom_toList, idBytes]
  refine List.map_congr_left fun i hi => BitVec.eq_of_getLsbD_eq fun k hk => ?_
  have hi8 : i < 8 := List.mem_range.mp hi
  rw [State.romByte_getLsbD _ _ _ hk, h _ (by omega) (by omega), idBit, BitVec.getLsbD_extractLsb',
    decide_eq_true hk, Bool.true_and, Nat.add_sub_cancel]

/-- A well-formed identifier is one a pass accepts. -/
theorem romValid_of_romHolds {s : State} {d : Identifier} (h : RomHolds s d) (hd : IdentifierOk d) :
    RomValid s := by
  have hbytes := rom_toList_of_romHolds h
  refine ⟨hbytes ▸ hd.1, fun hzero => hd.2 ?_⟩
  rw [← hbytes, State.rom_toList, ← hzero]
  rfl

/-! ### The order of discovery -/

theorem before_irrefl (d : Identifier) : ¬Before d d := by
  rintro ⟨p, -, -, -, h0, h1⟩
  exact Bool.false_ne_true (h0.symm.trans h1)

theorem before_trans {d e f : Identifier} (hde : Before d e) (hef : Before e f) : Before d f := by
  obtain ⟨p, hp1, hp64, hp, hd, he⟩ := hde
  obtain ⟨q, hq1, hq64, hq, he', hf⟩ := hef
  rcases Nat.lt_trichotomy p q with hlt | rfl | hgt
  · exact ⟨p, hp1, hp64, fun r h1 h => (hp r h1 h).trans (hq r h1 (by omega)), hd,
      (hq p hp1 hlt).symm.trans he⟩
  · exact absurd (he'.symm.trans he) Bool.false_ne_true
  · exact ⟨q, hq1, hq64, fun r h1 h => (hp r h1 (by omega)).trans (hq r h1 h),
      (hp q hq1 hgt).trans he', hf⟩

/-! ### One position of the pass -/

theorem active_succ {s : State} {devices : List Identifier} {p : Nat} {d : Identifier}
    (h : Active s devices p d) (hp : idBit d p = stDirection (tripletAnswer s p)) :
    Active s devices (p + 1) d :=
  ⟨h.1, fun q h1 hq => (Nat.lt_succ_iff_lt_or_eq.mp hq).elim (h.2 q h1) fun heq => heq ▸ hp⟩

theorem active_of_agree {s : State} {devices : List Identifier} {p n : Nat} {d e : Identifier}
    (hd : Active s devices n d) (hpn : p ≤ n) (he : e ∈ devices)
    (hagree : ∀ q, 1 ≤ q → q < p → idBit d q = idBit e q) : Active s devices p e :=
  ⟨he, fun q h1 hq => (hagree q h1 hq).symm.trans (hd.2 q h1 (by omega))⟩

section
variable {s : State} {devices : List Identifier} (hfaith : Faithful s devices)
  {p : Nat} (h1 : 1 ≤ p) (h64 : p ≤ 64)
include hfaith h1 h64

/-- Where two active devices differ, the direction taken is the one requested. -/
theorem direction_eq_steering {d e : Identifier} (hd : Active s devices p d)
    (he : Active s devices p e) (hne : idBit d p ≠ idBit e p) :
    stDirection (tripletAnswer s p) = steering s p := by
  have hfirst : ¬stSingleBit (tripletAnswer s p) = true := fun h =>
    have hall := (hfaith.first p h1 h64).mp h
    hne ((hall d hd).trans (hall e he).symm)
  have hsecond : ¬stTripletSecond (tripletAnswer s p) = true := fun h =>
    have hall := (hfaith.second p h1 h64).mp h
    hne ((hall d hd).trans (hall e he).symm)
  rw [hfaith.direction p h1 h64, if_neg hfirst, if_neg hsecond]

theorem single_eq_false_of_direction (h : stDirection (tripletAnswer s p) = false) :
    stSingleBit (tripletAnswer s p) = false := by
  by_contra hfirst
  rw [hfaith.direction p h1 h64, if_pos (Bool.eq_true_of_not_eq_false hfirst)] at h
  exact Bool.false_ne_true h.symm

theorem exists_active_of_single_eq_false (h : stSingleBit (tripletAnswer s p) = false) :
    ∃ d, Active s devices p d ∧ idBit d p = false := by
  have hall := mt (hfaith.first p h1 h64).mpr (Bool.eq_false_iff.mp h)
  push Not at hall
  simpa only [ne_eq, Bool.not_eq_true] using hall

theorem exists_active_of_second_eq_false (h : stTripletSecond (tripletAnswer s p) = false) :
    ∃ d, Active s devices p d ∧ idBit d p = true := by
  have hall := mt (hfaith.second p h1 h64).mpr (Bool.eq_false_iff.mp h)
  push Not at hall
  simpa only [ne_eq, Bool.not_eq_false] using hall

/-- Some active device has the bit of the direction taken. -/
theorem exists_active_direction (hactive : ∃ d, Active s devices p d) :
    ∃ d, Active s devices p d ∧ idBit d p = stDirection (tripletAnswer s p) := by
  have hdir := hfaith.direction p h1 h64
  cases hfirst : stSingleBit (tripletAnswer s p) with
  | true =>
    obtain ⟨d, hd⟩ := hactive
    rw [hfirst, if_pos rfl] at hdir
    exact ⟨d, hd, ((hfaith.first p h1 h64).mp hfirst d hd).trans hdir.symm⟩
  | false =>
    cases htaken : stDirection (tripletAnswer s p) with
    | false => exact exists_active_of_single_eq_false hfaith h1 h64 hfirst
    | true =>
      refine exists_active_of_second_eq_false hfaith h1 h64 (Bool.eq_false_iff.mpr fun hsecond => ?_)
      rw [htaken, hfirst, hsecond] at hdir
      exact Bool.false_ne_true hdir.symm

/-- A zero branch is a direction 0 away from an active device with the bit 1 (44_search.md R154). -/
theorem tookZeroBranch_iff :
    tookZeroBranch (tripletAnswer s p) = true ↔
      stDirection (tripletAnswer s p) = false ∧ ∃ e, Active s devices p e ∧ idBit e p = true := by
  simp only [tookZeroBranch, Bool.and_eq_true, Bool.not_eq_true']
  constructor
  · rintro ⟨⟨-, hsecond⟩, hdir⟩
    exact ⟨hdir, exists_active_of_second_eq_false hfaith h1 h64 hsecond⟩
  · rintro ⟨hdir, e, he, he1⟩
    refine ⟨⟨single_eq_false_of_direction hfaith h1 h64 hdir, Bool.eq_false_iff.mpr fun h => ?_⟩, hdir⟩
    exact Bool.false_ne_true (((hfaith.second p h1 h64).mp h e he).symm.trans he1)

end

/-! ### The device a pass ends on -/

section
variable {s : State} {devices : List Identifier} (hfaith : Faithful s devices)
include hfaith

/-- Some device stays active through every position. -/
theorem exists_active (hne : devices ≠ []) (n : Nat) (hn : n ≤ 64) :
    ∃ d, Active s devices (n + 1) d := by
  induction n with
  | zero =>
    obtain ⟨d, hd⟩ := List.exists_mem_of_ne_nil devices hne
    exact ⟨d, hd, fun q h1 hq => by omega⟩
  | succ n ih =>
    obtain ⟨d, hd, hdir⟩ := exists_active_direction hfaith (by omega) hn (ih (by omega))
    exact ⟨d, active_succ hd hdir⟩

/-- The pass is not aborted. -/
theorem noneResponded_eq_false (hne : devices ≠ []) {p : Nat} (h1 : 1 ≤ p) (h64 : p ≤ 64) :
    noneResponded (tripletAnswer s p) = false := by
  obtain ⟨d, hd⟩ := exists_active hfaith hne (p - 1) (by omega)
  rw [Nat.sub_add_cancel h1] at hd
  by_contra h
  obtain ⟨hfirst, hsecond⟩ : stSingleBit (tripletAnswer s p) = true ∧
      stTripletSecond (tripletAnswer s p) = true := by simpa [noneResponded] using h
  exact Bool.false_ne_true
    (((hfaith.second p h1 h64).mp hsecond d hd).symm.trans ((hfaith.first p h1 h64).mp hfirst d hd))

variable {d : Identifier} (hd : Active s devices 65 d)
include hd

/-- LD and LDF as the pass leaves them are those that finding this device leaves (44_search.md R157). -/
theorem found_of_active {t : State} {z : Nat} (hz : LastZeroBranch s 64 z) (hrom : RomHolds t d)
    (hld : t.ld.toNat = z) (hldf : t.ldf = decide (z = 0)) : Found t devices d := by
  obtain ⟨hz64, hzero, hlast⟩ := hz
  refine ⟨hd.1, hrom, hld ▸ hz64, fun hpos => ?branch, fun p hp h64 hd0 e he hagree => ?last, hld ▸ hldf⟩
  case branch =>
    rw [hld] at hpos ⊢
    obtain ⟨hdir, e, he, he1⟩ := (tookZeroBranch_iff hfaith hpos hz64).mp (hzero hpos)
    exact ⟨(hd.2 z hpos (by omega)).trans hdir, e, he.1,
      fun q h1 hq => (hd.2 q h1 (by omega)).trans (he.2 q h1 hq).symm, he1⟩
  case last =>
    rw [hld] at hp
    by_contra he1
    have htook := (tookZeroBranch_iff hfaith (by omega) h64).mpr
      ⟨(hd.2 p (by omega) (by omega)).symm.trans hd0, e, active_of_agree hd (by omega) he hagree,
        Bool.eq_true_of_not_eq_false he1⟩
    exact Bool.false_ne_true ((hlast p hp h64).symm.trans htook)

/-! ### Its place in the order of discovery (44_search.md R165) -/

/-- Beyond LD the pass goes toward 0, so its device is the first of those that agree with it up to there. -/
theorem eq_or_before_of_agree {e : Identifier} (he : e ∈ devices)
    (hagree : ∀ q, 1 ≤ q → q ≤ s.ld.toNat → idBit d q = idBit e q) : e = d ∨ Before d e := by
  rcases eq_or_first_difference (s.ld.toNat + 1) fun q h1 hq => hagree q h1 (by omega) with
    rfl | ⟨p, h1, hld, h64, hsame, hne⟩
  · exact .inl rfl
  · have hdir := direction_eq_steering hfaith h1 h64 (active_of_agree hd (by omega) hd.1 fun _ _ _ => rfl)
      (active_of_agree hd (by omega) he hsame) hne
    have hsteer : steering s p = false := by
      rw [steering, if_neg (by omega), decide_eq_false (by omega)]
    have hd0 : idBit d p = false := (hd.2 p h1 (by omega)).trans (hdir.trans hsteer)
    refine .inr ⟨p, h1, h64, hsame, hd0, ?_⟩
    rw [hd0] at hne
    exact Bool.eq_true_of_not_eq_false hne.symm

variable {d₀ : Identifier} (hfound : Found s devices d₀)
include hfound

/-- Before LD the pass replays the device found last. -/
theorem agree_of_found (q : Nat) (h1 : 1 ≤ q) (hq : q < s.ld.toNat) : idBit d₀ q = idBit d q := by
  induction q using Nat.strong_induction_on with
  | _ q ih =>
    have h64 := hfound.ld
    by_contra hne
    have hactive : Active s devices q d₀ :=
      active_of_agree hd (by omega) hfound.device fun r h1 hr => (ih r hr h1 (by omega)).symm
    have hdir := direction_eq_steering hfaith h1 (by omega) hactive
      (active_of_agree hd (by omega) hd.1 fun _ _ _ => rfl) hne
    rw [steering, if_pos hq, hfound.rom q h1 (by omega)] at hdir
    exact hne (hdir.symm.trans (hd.2 q h1 (by omega)).symm)

variable (hpos : 0 < s.ld.toNat)
include hpos

/-- At LD the pass goes toward 1. -/
theorem idBit_ld_of_found : idBit d s.ld.toNat = true := by
  have h64 := hfound.ld
  obtain ⟨hd0, e, he, hsame, he1⟩ := hfound.branch hpos
  have hagree := agree_of_found hfaith hd hfound
  have hdir := direction_eq_steering hfaith hpos h64
    (active_of_agree hd (by omega) hfound.device fun q h1 hq => (hagree q h1 hq).symm)
    (active_of_agree hd (by omega) he fun q h1 hq => (hagree q h1 hq).symm.trans (hsame q h1 hq))
    (by rw [hd0, he1]; exact Bool.false_ne_true)
  rw [steering, if_neg (lt_irrefl _), decide_eq_true rfl] at hdir
  exact (hd.2 _ hpos (by omega)).trans hdir

theorem before_of_found : Before d₀ d :=
  ⟨s.ld.toNat, hpos, hfound.ld, agree_of_found hfaith hd hfound, (hfound.branch hpos).1,
    idBit_ld_of_found hfaith hd hfound hpos⟩

/-- The pass ends on the first device after the one found last. -/
theorem eq_or_before_of_found {e : Identifier} (he : e ∈ devices) (hbefore : Before d₀ e) :
    e = d ∨ Before d e := by
  obtain ⟨p, h1, h64, hsame, hp0, hp1⟩ := hbefore
  have hagree := agree_of_found hfaith hd hfound
  rcases Nat.lt_trichotomy p s.ld.toNat with hlt | rfl | hgt
  · exact .inr ⟨p, h1, h64, fun q hq hqp => (hagree q hq (by omega)).symm.trans (hsame q hq hqp),
      (hagree p h1 hlt).symm.trans hp0, hp1⟩
  · refine eq_or_before_of_agree hfaith hd he fun q hq hle => ?_
    rcases Nat.lt_or_eq_of_le hle with hlt | rfl
    · exact (hagree q hq hlt).symm.trans (hsame q hq hlt)
    · exact (idBit_ld_of_found hfaith hd hfound hpos).trans hp1.symm
  · exact absurd ((hfound.last p hgt h64 hp0 e he hsame).symm.trans hp1) Bool.false_ne_true

end

/-! ### The pass -/

section
variable {s : State} {devices : List Identifier} {i : Instr} {rc : Byte} (hi : PassOperation i rc)
  (hldf : s.ldf = false) (hok : ∀ d ∈ devices, IdentifierOk d) (hne : devices ≠ [])
  (hfaith : Faithful s devices)
include hi hldf hok hne hfaith

/-- A pass over a faithful bridge finds the device that stays active through every position. -/
theorem exec_pass_of_faithful :
    ∃ t d, exec i s = .next t ∧ t.result = 0x01 ∧ Found t devices d ∧ Active s devices 65 d := by
  obtain ⟨d, hd⟩ := exists_active hfaith hne 64 (le_refl 64)
  obtain ⟨t, z, z8, hexec, hz, -, -, hbits, haccept, -⟩ := completePassOutcome s i rc hi hldf hfaith.idle
    hfaith.presence fun p h1 h64 => noneResponded_eq_false hfaith hne h1 h64
  have hrom : RomHolds t d := fun p h1 h64 => (hbits p h1 h64).trans (hd.2 p h1 (by omega)).symm
  obtain ⟨hresult, hld, hflag, -⟩ := haccept (romValid_of_romHolds hrom (hok d hd.1))
  exact ⟨t, d, hexec, hresult, found_of_active hfaith hd hz hrom hld hflag, hd⟩

end

/-- Settles O46: from the root the pass goes toward 0 wherever devices differ; after a device it replays that
device before LD, goes toward 1 at LD and toward 0 beyond. -/
theorem eachPassFindsTheNextIdentifier : Obligations.EachPassFindsTheNextIdentifier := by
  intro s devices i rc hi hldf hok hne hfaith
  obtain ⟨t, d', hexec, hresult, hfound, hd'⟩ := exec_pass_of_faithful hi hldf hok hne hfaith
  refine ⟨fun hroot => ⟨t, d', hexec, hresult, hfound, fun e he => ?root⟩,
    fun d hd hpos => ⟨t, d', hexec, hresult, hfound, before_of_found hfaith hd' hd hpos,
      fun e he hbefore => eq_or_before_of_found hfaith hd' hd hpos he hbefore⟩⟩
  case root =>
    refine eq_or_before_of_agree hfaith hd' he fun q h1 hq => ?_
    have hzero : s.ld.toNat = 0 := by rw [hroot]; rfl
    omega

end Sys2Proof.Machine
end

section
/-! An enumeration over K devices (44_search.md R166): each pass finds one more, in the order of discovery, until
none is left. -/

namespace Sys2Proof.Machine

/-! ### The devices still to come -/

/-- The devices an enumeration finds after d. -/
def laterDevices (devices : List Identifier) (d : Identifier) : Set Identifier :=
  {e | e ∈ devices ∧ Before d e}

theorem finite_laterDevices (devices : List Identifier) (d : Identifier) :
    (laterDevices devices d).Finite :=
  devices.finite_toSet.subset fun _ he => he.1

theorem ncard_devices {devices : List Identifier} (h : devices.Nodup) :
    {e | e ∈ devices}.ncard = devices.length := by
  classical
  rw [← List.toFinset_card_of_nodup h, ← Set.ncard_coe_finset, List.coe_toFinset]

/-- Of the devices not found yet, finding the first one leaves one fewer. -/
theorem ncard_laterDevices_add_one {devices : List Identifier} {d : Identifier} {rest : Set Identifier}
    (hrest : rest ⊆ {e | e ∈ devices}) (hd : d ∈ rest) (hfirst : ∀ e ∈ rest, e = d ∨ Before d e)
    (hlater : laterDevices devices d ⊆ rest) :
    (laterDevices devices d).ncard + 1 = rest.ncard := by
  have heq : laterDevices devices d = rest \ {d} := by
    ext e
    constructor
    · intro he
      refine ⟨hlater he, ?_⟩
      rintro rfl
      exact before_irrefl e he.2
    · rintro ⟨he, hne⟩
      exact ⟨hrest he, (hfirst e he).resolve_left hne⟩
  rw [heq, Set.ncard_sdiff_singleton_add_one hd (devices.finite_toSet.subset hrest)]

/-- LD is zero exactly when no device is left. -/
theorem ld_eq_zero_iff {s : State} {devices : List Identifier} {d : Identifier}
    (h : Found s devices d) : s.ld.toNat = 0 ↔ (laterDevices devices d).ncard = 0 := by
  rw [Set.ncard_eq_zero (finite_laterDevices devices d), Set.eq_empty_iff_forall_notMem]
  constructor
  · rintro hzero e ⟨he, p, h1, h64, hsame, hp0, hp1⟩
    exact Bool.false_ne_true ((h.last p (by omega) h64 hp0 e he hsame).symm.trans hp1)
  · intro hnone
    by_contra hld
    obtain ⟨hd0, e, he, hsame, he1⟩ := h.branch (Nat.pos_of_ne_zero hld)
    exact hnone e ⟨he, s.ld.toNat, Nat.pos_of_ne_zero hld, h.ld, hsame, hd0, he1⟩

/-- LDF is set exactly when no device is left (10_state.md R31). -/
theorem ldf_eq_true_iff {s : State} {devices : List Identifier} {d : Identifier}
    (h : Found s devices d) : s.ldf = true ↔ (laterDevices devices d).ncard = 0 := by
  rw [h.flag, decide_eq_true_iff, ld_eq_zero_iff h]

/-! ### The enumeration so far -/

/-- Pass k + 1 of an enumeration through the states ss found d: as many devices are left as it needs passes,
and the devices found before d come before it. -/
structure Enumerated (ss : Nat → State) (devices : List Identifier) (k : Nat) (d : Identifier) : Prop where
  found : Found (ss (k + 1)) devices d
  result : (ss (k + 1)).result = 0x01
  left : (laterDevices devices d).ncard + (k + 1) = devices.length
  covered : ∀ e ∈ devices, (∃ j ≤ k, RomHolds (ss (j + 1)) e) ∨ Before d e
  ascending : ∀ j < k, ∀ e, RomHolds (ss (j + 1)) e → Before e d

section
variable {ss : Nat → State} {devices : List Identifier} {i : Instr} {rc : Byte}
  (hi : PassOperation i rc) (hne : devices ≠ []) (hok : ∀ d ∈ devices, IdentifierOk d)
  (hpass : ∀ k < devices.length, Faithful (ss k) devices ∧ exec i (ss k) = .next (ss (k + 1)))
include hi hne hok hpass

theorem enumerated_zero (hnodup : devices.Nodup) (hld : (ss 0).ld = 0) (hldf : (ss 0).ldf = false) :
    ∃ d, Enumerated ss devices 0 d := by
  obtain ⟨hfaith, hexec⟩ := hpass 0 (List.length_pos_iff.mpr hne)
  obtain ⟨t, d, ht, hresult, hfound, hfirst⟩ :=
    (eachPassFindsTheNextIdentifier (ss 0) devices i rc hi hldf hok hne hfaith).1 hld
  obtain rfl : ss 1 = t := Host.Outcome.next.inj (hexec.symm.trans ht)
  refine ⟨d, hfound, hresult, ?_, fun e he => ?_, fun j hj => absurd hj (Nat.not_lt_zero j)⟩
  · rw [← ncard_devices hnodup]
    exact ncard_laterDevices_add_one (subset_refl _) hfound.device hfirst fun e he => he.1
  · rcases hfirst e he with rfl | hlater
    · exact .inl ⟨0, le_refl 0, hfound.rom⟩
    · exact .inr hlater

theorem enumerated_succ {k : Nat} (hk : k + 1 < devices.length) {d : Identifier}
    (h : Enumerated ss devices k d) : ∃ d', Enumerated ss devices (k + 1) d' := by
  obtain ⟨hfaith, hexec⟩ := hpass (k + 1) hk
  have hleft := h.left
  have hpos : 0 < (ss (k + 1)).ld.toNat :=
    Nat.pos_of_ne_zero fun hzero => by have := (ld_eq_zero_iff h.found).mp hzero; omega
  have hldf : (ss (k + 1)).ldf = false := by
    rw [h.found.flag, decide_eq_false (Nat.ne_of_gt hpos)]
  obtain ⟨t, d', ht, hresult, hfound, hbefore, hfirst⟩ :=
    (eachPassFindsTheNextIdentifier _ devices i rc hi hldf hok hne hfaith).2 d h.found hpos
  obtain rfl : ss (k + 1 + 1) = t := Host.Outcome.next.inj (hexec.symm.trans ht)
  refine ⟨d', hfound, hresult, ?left, fun e he => ?covered, fun j hj e hrom => ?ascending⟩
  case left =>
    have hone := ncard_laterDevices_add_one (rest := laterDevices devices d) (fun e he => he.1)
      ⟨hfound.device, hbefore⟩ (fun e he => hfirst e he.1 he.2)
      fun e he => ⟨he.1, before_trans hbefore he.2⟩
    omega
  case covered =>
    rcases h.covered e he with ⟨j, hj, hrom⟩ | hlater
    · exact .inl ⟨j, by omega, hrom⟩
    · rcases hfirst e he hlater with rfl | hlater'
      · exact .inl ⟨k + 1, le_refl _, hfound.rom⟩
      · exact .inr hlater'
  case ascending =>
    rcases Nat.lt_succ_iff_lt_or_eq.mp hj with hlt | rfl
    · exact before_trans (h.ascending j hlt e hrom) hbefore
    · exact romHolds_unique h.found.rom hrom ▸ hbefore

theorem exists_enumerated (hnodup : devices.Nodup) (hld : (ss 0).ld = 0) (hldf : (ss 0).ldf = false)
    (k : Nat) (hk : k < devices.length) : ∃ d, Enumerated ss devices k d := by
  induction k with
  | zero => exact enumerated_zero hi hne hok hpass hnodup hld hldf
  | succ k ih =>
    obtain ⟨d, hd⟩ := ih (by omega)
    exact enumerated_succ hi hne hok hpass hk hd

end

/-- Settles O47: pass by pass, the devices left are one fewer, and the LastDeviceFlag exit follows the last. -/
theorem enumerationFindsEveryDevice : Obligations.EnumerationFindsEveryDevice := by
  intro ss devices i rc hi hne hnodup hok hld hldf hpass
  have henum := exists_enumerated hi hne hok hpass hnodup hld hldf
  obtain ⟨n, hn⟩ : ∃ n, devices.length = n + 1 :=
    Nat.exists_eq_succ_of_ne_zero (List.length_pos_iff.mpr hne).ne'
  obtain ⟨last, hlast⟩ := henum n (by omega)
  have hnone : (laterDevices devices last).ncard = 0 := by
    have := hlast.left
    omega
  refine ⟨fun d hd => ?every, fun j k d e hjk hk hd he => ?order, fun k hk => ?flag, ?exit⟩
  case every =>
    rcases hlast.covered d hd with ⟨j, hj, hrom⟩ | hlater
    · exact ⟨j, by omega, hrom⟩
    · rw [Set.ncard_eq_zero (finite_laterDevices devices last)] at hnone
      exact absurd (hnone ▸ ⟨hd, hlater⟩ : d ∈ (∅ : Set Identifier)) (Set.notMem_empty d)
  case order =>
    obtain ⟨d', hd'⟩ := henum k hk
    exact romHolds_unique hd'.found.rom he ▸ hd'.ascending j hjk d hd
  case flag =>
    obtain ⟨d, hd⟩ := henum k hk
    have hleft := hd.left
    refine ⟨hd.result, (ldf_eq_true_iff hd.found).trans ?_⟩
    omega
  case exit =>
    rw [hn]
    refine ⟨_, exec_pass_of_ldf hi ((ldf_eq_true_iff hlast.found).mpr hnone), rfl, ?_⟩
    split <;> rfl

end Sys2Proof.Machine
end

section
/-! The one exception of the block, IllegalRequest (60_exceptions.md R170): what raises it, and what clears
its bit of HSR. -/

namespace Sys2Proof.Machine

/-- Issuing a word the decoder rejects raises IllegalRequest. -/
theorem runIssue_of_decode_error {s : State} {req : Word} {e : DecodeError}
    (h : decode s.params (.request req) = .error e) :
    runIssue req s = .next (raiseIllegalRequest s) := by
  simp only [runIssue, h]

/-- Every host operation leaves HSR idle, with ILLEGAL clear (10_state.md R25, 41_bridge.md R101). -/
theorem Effect.hsr {s t : State} {fs : List Frame} {i : Instr} (h : Effect s fs i t)
    (hi : i.isOperation = true) : t.hsr = 0x00 := by
  cases h with
  | row hrow => rw [hi] at hrow; cases hrow
  | search v hsearch hwritten hend => rw [hwritten]; rfl
  | _ => rfl

/-- Settles O13: the step hands the word to the request port, which rejects it; an operation that completes
has an effect of a host operation. -/
theorem illegalRequestSetsOnlyHsr : Obligations.IllegalRequestSetsOnlyHsr := by
  refine ⟨fun s req rest e hfree hport hdecode => ?illegal, fun s i t hi hexec => ?completes⟩
  case illegal =>
    have hrejected : decode (s.setPort rest).params (.request req) = .error e := hdecode
    exact (step_of_port_cons hfree hport).trans (runIssue_of_decode_error hrejected)
  case completes =>
    obtain ⟨fs, -, heffect⟩ := exec_effect hexec
    exact heffect.hsr hi

end Sys2Proof.Machine
end

section
/-! Hazards (70_reset_and_hazards.md): no host action while an operation runs (R194), parameters fixed for the
block's lifetime (R192), and the worst-case frame count of every instruction (R202), read off what each
instruction does. -/

namespace Sys2Proof.Machine

/-! ### The busy block and the parameters (70_reset_and_hazards.md R192, R194) -/

/-- A block that is busy refuses the next action, whatever it is. -/
theorem step_of_busy {s : State} {e : PortEvent} {rest : List PortEvent} (hbusy : hsrBusy s.hsr = true)
    (hport : s.port = e :: rest) : step s = .refused .hostAccessWhileBusy := by
  simp only [step, runPort, hport, hbusy, if_true]

/-- Settles O6: bit 0 of HSR is BUSY. -/
theorem hostActionRefusedWhileBusy : Obligations.HostActionRefusedWhileBusy :=
  fun _ _ _ hbusy hport => step_of_busy hbusy hport

theorem Effect.params {s t : State} {fs : List Frame} {i : Instr} (h : Effect s fs i t) :
    t.params = s.params := by
  cases h with
  | search v hi hwritten hend => rw [hwritten]; rfl
  | _ => rfl

/-- Settles O53: each of the five things a step can do keeps the parameters. -/
theorem parametersNeverChange : Obligations.ParametersNeverChange := by
  intro s t hstep
  cases step_effect hstep with
  | wait => rfl
  | read a rest hport =>
    obtain ⟨n, hn⟩ := hostRead_state a (s.setPort rest)
    rw [hn]
    rfl
  | write a v rest =>
    obtain ⟨m, hm⟩ := hostWrite_state a v (s.setPort rest)
    rw [hm]
    rfl
  | illegal rest => rfl
  | instr i rest t hexec =>
    obtain ⟨fs, -, heffect⟩ := exec_effect hexec
    exact heffect.params

/-! ### How many frames a procedure issues -/

/-- A configuration write is one frame, and a device reset after it where the echo does not match. -/
theorem configWritten_length {s : State} {c : BitVec 4} {ok : Bool} {fs : List Frame}
    (h : ConfigWritten s c ok fs) : fs.length = if ok then 1 else 2 := by
  rcases h with ⟨-, rfl, rfl⟩ | ⟨-, rfl, rfl⟩ <;> rfl

theorem touchByteDone_length {s : State} {v b : Byte} {fs : List Frame} (h : TouchByteDone s v b fs) :
    fs.length ≤ s.params.pollLimit + 2 + if v = 0xFF then 1 else 0 := by
  rcases h with ⟨hv, S, ws, hw, -, rfl⟩ | ⟨hv, -, S, hw⟩
  · rw [if_pos hv, List.length_append]
    exact Nat.add_le_add_right (waited_length hw).2 1
  · rw [if_neg hv]
    exact (waited_length hw).2

/-- Lists of at most m elements each, or m + 1 at the places p picks. -/
theorem length_flatten_le {α : Type} {m : Nat} {p : Nat → Bool} {xss : List (List α)}
    (h : ∀ j xs, xss[j]? = some xs → xs.length ≤ m + if p j then 1 else 0) :
    xss.flatten.length ≤ xss.length * m + ((List.range xss.length).filter p).length := by
  induction xss using List.reverseRecOn with
  | nil => exact Nat.zero_le _
  | append_singleton xss xs ih =>
    have hrest := ih fun j ys hj =>
      h j ys ((List.getElem?_append_left (List.getElem?_eq_some_iff.mp hj).1).trans hj)
    have hlast := h xss.length xs (by simp)
    have hcount : ((List.range (xss.length + 1)).filter p).length =
        ((List.range xss.length).filter p).length + if p xss.length then 1 else 0 := by
      rw [List.range_succ, List.filter_append, List.length_append]
      cases hp : p xss.length <;> simp [hp]
    simp only [List.flatten_append, List.flatten_singleton, List.length_append, List.length_singleton,
      hcount, Nat.add_mul, Nat.one_mul]
    omega

theorem finishPass_hist (c : Cursor) (s : State) : (finishPass c s).2.hist = s.hist := by
  rcases finishPass_cases c s with ⟨-, -, -, he⟩ | ⟨-, he⟩
  · rw [he, recordSuccess_eq]
  · rw [he]; rfl

/-- A pass is at most the bus reset, the ROM command and 64 triplets, each waited for. -/
theorem search_hist_length (rc : Byte) (s : State) :
    (search rc s).2.hist.length ≤ s.hist.length + 66 * (s.params.pollLimit + 2) := by
  rcases search_cases rc s with ⟨-, he⟩ | ⟨-, S, fs, hw, ⟨-, he⟩ | ⟨-, T, gs, hg, he⟩⟩
  · have hkept : (search rc s).2.hist = s.hist := by
      rw [he]
      cases s.params.ldfExitResets <;> rfl
    exact hkept ▸ Nat.le_add_right _ _
  · have hreset : (search rc s).2.hist = s.hist ++ fs := by rw [he]; rfl
    have hfs := (waited_length hw).2
    rw [hreset, List.length_append]
    omega
  · obtain ⟨hs, hpass, hlen, -⟩ := searchLoop_spec 64 Cursor.start (passStart s S fs gs) (le_refl 1)
      (le_refl 65) (crcBefore_passStart s S fs gs)
    have hloop : (search rc s).2.hist = s.hist ++ (fs ++ gs) ++ hs := by
      rw [he, finishPass_hist, hpass]
      rfl
    have hfs := (waited_length hw).2
    have hgs : gs.length ≤ s.params.pollLimit + 2 := (waited_length hg).2
    have hhs : hs.length ≤ 64 * (s.params.pollLimit + 2) := hlen
    simp only [hloop, List.length_append]
    omega

/-! ### How many frames an instruction issues (70_reset_and_hazards.md R202) -/

section
variable {s t : State} {i : Instr}

/-- An instruction known to complete with the frames fs issues no more than these. -/
theorem hist_length_le_of_exec {u : State} {fs : List Frame} {n : Nat} (h : exec i s = .next t)
    (hexec : exec i s = .next u) (hhist : u.hist = s.hist ++ fs) (hn : fs.length ≤ n) :
    t.hist.length ≤ s.hist.length + n := by
  obtain rfl := Host.Outcome.next.inj (hexec.symm.trans h)
  rw [hhist, List.length_append]
  exact Nat.add_le_add_left hn _

theorem hist_length_of_exec_writeConfig {c : BitVec 4} (h : exec (.writeConfig c) s = .next t) :
    t.hist.length ≤ s.hist.length + 2 := by
  obtain ⟨hsuccess, hfailure⟩ := writeConfigOutcome s c
  by_cases hecho : (s.answer 0).extractLsb' 0 4 = c
  · exact hist_length_le_of_exec h (hsuccess hecho) rfl (Nat.le_succ 1)
  · exact hist_length_le_of_exec h (hfailure hecho) rfl (le_refl 2)

theorem hist_length_of_exec_detect (h : exec .detect s = .next t) :
    t.hist.length ≤ s.hist.length + 3 := by
  obtain ⟨hreset, hack⟩ := detectOutcome s
  by_cases hreply : (s.answer 0 &&& s.params.resetAckMask) = s.params.resetAck
  case neg => exact hist_length_le_of_exec h (hreset hreply) rfl (by decide : 1 ≤ 3)
  obtain ⟨hsuccess, hfailure⟩ := hack hreply
  by_cases hecho : (s.answer 1).extractLsb' 0 4 = 0x1#4
  · exact hist_length_le_of_exec h (hsuccess hecho) rfl (Nat.le_succ 2)
  · exact hist_length_le_of_exec h (hfailure hecho) rfl (le_refl 3)

theorem hist_length_of_exec_touchByte {v : Byte} (h : exec (.touchByte v) s = .next t) :
    t.hist.length ≤ s.hist.length + worstFrames s (.touchByte v) := by
  obtain ⟨b, fs, hdone, he⟩ := exec_touchByte_spec v s
  refine hist_length_le_of_exec h he rfl ((touchByteDone_length hdone).trans_eq ?_)
  simp only [worstFrames]
  split <;> rfl

/-- BLOCK is one TOUCH_BYTE for each byte, and a byte 0xFF takes one frame more. -/
theorem hist_length_of_exec_block {n : BitVec 9} (h : exec (.block n) s = .next t) :
    t.hist.length ≤ s.hist.length + (n.toNat * (s.params.pollLimit + 2) + allOnesBytes s n.toNat) := by
  obtain ⟨bs, fss, u, hbs, hfss, he, hu, hbytes, -⟩ :=
    blockOutcome s n (bufByte_isSome_of_exec_block h)
  have hlen : fss.flatten.length ≤ fss.length * (s.params.pollLimit + 2) +
      ((List.range fss.length).filter fun j => s.bufByte j == some 0xFF).length := by
    refine length_flatten_le fun j fs hj => ?_
    have hlt : j < bs.length := by
      have := (List.getElem?_eq_some_iff.mp hj).1
      omega
    obtain ⟨-, v, hv, hdone⟩ := hbytes j bs[j] fs (List.getElem?_eq_getElem hlt) hj
    simpa [hv] using touchByteDone_length hdone
  rw [hfss] at hlen
  exact hist_length_le_of_exec h he (by rw [hu]; rfl) hlen

theorem hist_length_of_exec_setLevel {l : Level} (h : exec (.setLevel l) s = .next t) :
    t.hist.length ≤ s.hist.length + worstFrames s (.setLevel l) := by
  obtain ⟨hstrong, fs, ok, hc, hstandard⟩ := setLevelOutcome s
  have hfs := configWritten_length hc
  cases l with
  | strong => exact hist_length_le_of_exec h hstrong rfl (le_refl 0)
  | standard =>
    cases ok with
    | true => exact hist_length_le_of_exec h hstandard rfl (hfs.trans_le (Nat.le_succ 1))
    | false => exact hist_length_le_of_exec h hstandard rfl hfs.le

theorem hist_length_of_exec_writeBitPower {b : Bool} (h : exec (.writeBitPower b) s = .next t) :
    t.hist.length ≤ s.hist.length + (1 + (s.params.pollLimit + 2) + 2) := by
  obtain ⟨ok, fs, hc, hfailure, hsuccess⟩ := writeBitPowerOutcome s b
  cases ok with
  | false =>
    have hfs : fs.length = 2 := configWritten_length hc
    exact hist_length_le_of_exec h (hfailure rfl) rfl (by omega)
  | true =>
    have hfs : fs.length = 1 := configWritten_length hc
    obtain ⟨S, ws, hw, hexpected, hmismatch⟩ := hsuccess rfl
    have hws : ws.length ≤ s.params.pollLimit + 2 := (waited_length hw).2
    by_cases hb : S.getLsbD 5 = b
    · refine hist_length_le_of_exec h (hexpected hb) rfl ?_
      rw [List.length_append, hfs]
      omega
    · obtain ⟨ok', gs, hc', he⟩ := hmismatch hb
      have hgs : gs.length ≤ 2 := by
        rw [configWritten_length hc']
        split <;> decide
      refine hist_length_le_of_exec h he rfl ?_
      rw [List.length_append, List.length_append, hfs]
      omega

theorem hist_length_of_exec_writeBytePower {v : Byte} (h : exec (.writeBytePower v) s = .next t) :
    t.hist.length ≤ s.hist.length + (1 + (s.params.pollLimit + 2)) := by
  obtain ⟨ok, fs, hc, hfailure, hsuccess⟩ := writeBytePowerOutcome s v
  cases ok with
  | false =>
    have hfs : fs.length = 2 := configWritten_length hc
    exact hist_length_le_of_exec h (hfailure rfl) rfl (by omega)
  | true =>
    have hfs : fs.length = 1 := configWritten_length hc
    obtain ⟨S, ws, hw, he⟩ := hsuccess rfl
    refine hist_length_le_of_exec h he rfl ?_
    rw [List.length_append, hfs]
    exact Nat.add_le_add_left (waited_length hw).2 1

theorem hist_length_of_isSearch (hi : i.isSearch = true) (h : exec i s = .next t) :
    t.hist.length ≤ s.hist.length + 66 * (s.params.pollLimit + 2) := by
  obtain ⟨rc, s0, hs0, he⟩ := exec_search hi s
  obtain rfl := Host.Outcome.next.inj (he.symm.trans h)
  have hpass := search_hist_length rc s0
  rcases hs0 with rfl | rfl <;> exact hpass

end

/-- Settles O51: each instruction's frames as its outcome gives them, counted against its row of R202. -/
theorem frameCountsAreBounded : Obligations.FrameCountsAreBounded := by
  intro s t i h
  cases i with
  | bridgeReset => exact hist_length_le_of_exec h (bridgeResetOutcome s) rfl (le_refl 1)
  | detect => exact hist_length_of_exec_detect h
  | writeConfig c => exact hist_length_of_exec_writeConfig h
  | busReset =>
    obtain ⟨S, fs, hw, he⟩ := busResetOutcome s
    exact hist_length_le_of_exec h he rfl (waited_length hw).2
  | touchBit b =>
    obtain ⟨S, fs, hw, he⟩ := touchBitOutcome s b
    exact hist_length_le_of_exec h he rfl (waited_length hw).2
  | writeBit b =>
    obtain ⟨S, fs, hw, he⟩ := (readBitAndWriteBitOutcome s).2 b
    exact hist_length_le_of_exec h he rfl (waited_length hw).2
  | readBit =>
    obtain ⟨S, fs, hw, he⟩ := (readBitAndWriteBitOutcome s).1
    exact hist_length_le_of_exec h he rfl (waited_length hw).2
  | writeByte v =>
    obtain ⟨S, fs, hw, he⟩ := writeByteOutcome s v
    exact hist_length_le_of_exec h he rfl (waited_length hw).2
  | readByte =>
    obtain ⟨S, ws, hw, he⟩ := readByteOutcome s
    refine hist_length_le_of_exec h he rfl ?_
    rw [List.length_append]
    exact Nat.add_le_add_right (waited_length hw).2 1
  | touchByte v => exact hist_length_of_exec_touchByte h
  | block n => exact hist_length_of_exec_block h
  | setLevel l => exact hist_length_of_exec_setLevel h
  | writeBitPower b => exact hist_length_of_exec_writeBitPower h
  | writeBytePower v => exact hist_length_of_exec_writeBytePower h
  | crcClear => exact hist_length_le_of_exec h (crcOperationsOutcome s 0x00).1 rfl (le_refl 0)
  | crcUpdate v => exact hist_length_le_of_exec h (crcOperationsOutcome s v).2 rfl (le_refl 0)
  | searchFirst | searchNext | alarmFirst | alarmNext => exact hist_length_of_isSearch rfl h
  | triplet d =>
    obtain ⟨S, fs, hw, he⟩ := tripletOutcome s d
    exact hist_length_le_of_exec h he rfl (waited_length hw).2
  | bridgeDeviceReset | bridgeBusReset | bridgeReadByte | bridgeSetReadPointer =>
    exact hist_length_le_of_exec h rfl rfl (le_refl 1)
  | bridgeWriteConfig operand | bridgeSingleBit operand | bridgeWriteByte operand
  | bridgeTriplet operand => exact hist_length_le_of_exec h rfl rfl (le_refl 1)
  | bridgeWriteByteWithPower => cases h

end Sys2Proof.Machine
end

section
/-! The bridge rows of the opcode table (30_encoding.md section 2): that decoder and encoder agree on them, and
that a row run by itself is one COMMAND (41_bridge.md R102, R103). -/

namespace Sys2Proof.Machine

section
variable {P : Params}

/-! ### Distinct opcodes, each inequality as the decoder tests it -/

/-- The opcodes of the frames of one written byte (30_encoding.md R87). -/
theorem shortOpcodes_ne (h : P.opcodesDistinct = true) :
    P.cmd1wrs ≠ P.cmdDrst ∧ (P.cmd1wrb ≠ P.cmdDrst ∧ P.cmd1wrb ≠ P.cmd1wrs) ∧
      ∀ v, P.cmdWbp = some v → v ≠ P.cmdDrst ∧ v ≠ P.cmd1wrs ∧ v ≠ P.cmd1wrb := by
  have hnodup := of_decide_eq_true (Bool.and_eq_true_iff.mp h).1
  simp only [List.cons_append, List.nil_append, List.nodup_cons, List.mem_cons, Option.mem_toList,
    not_or] at hnodup
  obtain ⟨⟨hdrs, hdrb, hdwbp⟩, ⟨hsrb, hswbp⟩, hbwbp, -⟩ := hnodup
  refine ⟨Ne.symm hdrs, ⟨Ne.symm hdrb, Ne.symm hsrb⟩, fun v hv => ⟨?_, ?_, ?_⟩⟩
  · rintro rfl; exact hdwbp hv
  · rintro rfl; exact hswbp hv
  · rintro rfl; exact hbwbp hv

/-- The opcodes of the frames of two written bytes (30_encoding.md R86). -/
theorem longOpcodes_ne (h : P.opcodesDistinct = true) :
    P.cmd1wsb ≠ P.cmdWcfg ∧ (P.cmd1wwb ≠ P.cmdWcfg ∧ P.cmd1wwb ≠ P.cmd1wsb) ∧
      (P.cmdSrp ≠ P.cmdWcfg ∧ P.cmdSrp ≠ P.cmd1wsb ∧ P.cmdSrp ≠ P.cmd1wwb) ∧
      P.cmd1wt ≠ P.cmdWcfg ∧ P.cmd1wt ≠ P.cmd1wsb ∧ P.cmd1wt ≠ P.cmd1wwb ∧ P.cmd1wt ≠ P.cmdSrp := by
  have hnodup := of_decide_eq_true (Bool.and_eq_true_iff.mp h).2
  simp only [List.nodup_cons, List.mem_cons, List.not_mem_nil, or_false, not_or] at hnodup
  obtain ⟨⟨hcb, hcw, hcp, hct⟩, ⟨hbw, hbp, hbt⟩, ⟨hwp, hwt⟩, hpt, -⟩ := hnodup
  exact ⟨Ne.symm hcb, ⟨Ne.symm hcw, Ne.symm hbw⟩, ⟨Ne.symm hcp, Ne.symm hbp, Ne.symm hwp⟩,
    Ne.symm hct, Ne.symm hbt, Ne.symm hwt, Ne.symm hpt⟩

/-! ### From the row to its frame and back -/

theorem frameOperand_eq_ok_iff {α : Type} {operand : Option α} {f : α → Instr} {i : Instr} :
    frameOperand operand f = .ok i ↔ ∃ a, operand = some a ∧ f a = i := by
  cases operand <;> simp [frameOperand]

/-- With distinct opcodes the decoder passes over the rows before the one a frame was made from. -/
theorem decode_encode_of_bridgeRow {i : Instr} (hdistinct : P.opcodesDistinct = true)
    (hi : i.isOperation = false) (hwf : WellFormed P i) : decode P (encode P i) = .ok i := by
  obtain ⟨hbusReset, hreadByte, hwithPower⟩ := shortOpcodes_ne hdistinct
  obtain ⟨hsingleBit, hwriteByte, hreadPointer, htriplet⟩ := longOpcodes_ne hdistinct
  cases i with
  | bridgeDeviceReset => simp [encode, decode, decodeFrame, decodeShortFrame]
  | bridgeBusReset => simp [encode, decode, decodeFrame, decodeShortFrame, hbusReset]
  | bridgeReadByte => simp [encode, decode, decodeFrame, decodeShortFrame, hreadByte]
  | bridgeWriteByteWithPower =>
    obtain ⟨v, hv⟩ := Option.isSome_iff_exists.mp hwf
    simp [encode, decode, decodeFrame, decodeShortFrame, hv, hwithPower v hv]
  | bridgeWriteConfig c => simp [encode, decode, decodeFrame, decodeLongFrame, frameOperand]
  | bridgeSingleBit b => simp [encode, decode, decodeFrame, decodeLongFrame, frameOperand, hsingleBit]
  | bridgeWriteByte v => simp [encode, decode, decodeFrame, decodeLongFrame, hwriteByte]
  | bridgeSetReadPointer => simp [encode, decode, decodeFrame, decodeLongFrame, hreadPointer]
  | bridgeTriplet d => simp [encode, decode, decodeFrame, decodeLongFrame, frameOperand, htriplet]
  | _ => cases hi

/-! ### From a frame to its row and back: no premise on the opcodes -/

theorem encode_of_decodeShortFrame {cmd : Byte} {i : Instr} (h : decodeShortFrame P cmd = .ok i) :
    WellFormed P i ∧ encode P i = .frame [cmd] := by
  unfold decodeShortFrame at h
  split_ifs at h with hdrst hrs hrb hwbp <;> cases h
  · exact ⟨rfl, hdrst ▸ rfl⟩
  · exact ⟨rfl, hrs ▸ rfl⟩
  · exact ⟨rfl, hrb ▸ rfl⟩
  · exact ⟨Option.isSome_iff_exists.mpr ⟨cmd, hwbp⟩, by simp [encode, hwbp]⟩

theorem encode_of_decodeLongFrame {cmd arg : Byte} {i : Instr}
    (h : decodeLongFrame P cmd arg = .ok i) : WellFormed P i ∧ encode P i = .frame [cmd, arg] := by
  unfold decodeLongFrame at h
  split_ifs at h with hwcfg hsb hwb hsrp hptr ht
  · obtain ⟨c, hc, rfl⟩ := frameOperand_eq_ok_iff.mp h
    exact ⟨rfl, hwcfg ▸ wcfg_of_configOfArg hc ▸ rfl⟩
  · obtain ⟨b, hb, rfl⟩ := frameOperand_eq_ok_iff.mp h
    exact ⟨rfl, hsb ▸ bitArg_of_bitOfArg hb ▸ rfl⟩
  · cases h
    exact ⟨rfl, hwb ▸ rfl⟩
  · cases h
    exact ⟨rfl, hsrp ▸ hptr ▸ rfl⟩
  · obtain ⟨d, hd, rfl⟩ := frameOperand_eq_ok_iff.mp h
    exact ⟨rfl, ht ▸ bitArg_of_bitOfArg hd ▸ rfl⟩

theorem encode_of_decodeFrame {bytes : List Byte} {i : Instr} (h : decodeFrame P bytes = .ok i) :
    WellFormed P i ∧ encode P i = .frame bytes := by
  match bytes, h with
  | [], h => cases h
  | [_], h => exact encode_of_decodeShortFrame h
  | [_, _], h => exact encode_of_decodeLongFrame h
  | _ :: _ :: _ :: _, h => cases h

end

/-- Settles O11: only the way from the row needs the opcodes distinct. -/
theorem bridgeFramesDecodeAndEncodeAgree : Obligations.BridgeFramesDecodeAndEncodeAgree :=
  fun _ _ hdistinct hi => ⟨decode_encode_of_bridgeRow hdistinct hi, fun _ => encode_of_decodeFrame⟩

/-! ### A row run by itself -/

/-- COMMAND answers one frame and does nothing else (41_bridge.md R102). -/
theorem exec_eq_answered_of_command {s : State} {i : Instr} {cmd : Byte} {arg : Option Byte}
    (h : exec i s = .next (command cmd arg s).2) :
    exec i s = .next (s.answered [.txn cmd arg (s.answer 0)]) := by
  rwa [command_eq] at h

/-- Settles O57: each row is COMMAND of its opcode and argument. -/
theorem bridgeCommandIsOneFrame : Obligations.BridgeCommandIsOneFrame :=
  fun s => ⟨exec_eq_answered_of_command (exec_bridgeDeviceReset s),
    fun c => exec_eq_answered_of_command (exec_bridgeWriteConfig s c),
    exec_eq_answered_of_command (exec_bridgeBusReset s),
    fun b => exec_eq_answered_of_command (exec_bridgeSingleBit s b),
    fun v => exec_eq_answered_of_command (exec_bridgeWriteByte s v),
    exec_eq_answered_of_command (exec_bridgeReadByte s),
    exec_eq_answered_of_command (exec_bridgeSetReadPointer s),
    fun d => exec_eq_answered_of_command (exec_bridgeTriplet s d)⟩

end Sys2Proof.Machine
end
